-- ==== Sys2Proof/Word.lean ====
section
/-! DEFINITION. Word.lean: the widths the spec moves (R71): bytes, 16-bit stream words, 32-bit offsets. -/

namespace Sys2Proof

/-- A byte is 8 bits in all three byte spaces (R10 (a), R60). -/
abbrev Byte := BitVec 8

/-- A stream word: two consecutive input bytes (R64). -/
abbrev Word16 := BitVec 16

/-- An offset register (R28, R30). -/
abbrev Word32 := BitVec 32

end Sys2Proof
end

