-- ==== Sys2Proof/Config.lean ====
section
/-! DEFINITION. Config.lean: the parameters the spec fixes by decision (R9), the window size of `State.reset` (log 1), and the
free values of everything the spec leaves unspecified (log 5). -/

namespace Sys2Proof.Config

/-- `OUTPUT_MAX`: the largest `outputSize` accepted (R9, R273). -/
def outputMax : Nat := 32768

/-- `IN_MAX_BYTES`: the largest chunk input length (R9, D42). -/
def inMaxBytes : Nat := 2 ^ 32 - 3

/-- The value `decodedChunks` saturates at: `CHUNKCOUNT_BITS` is 32 (R9, R43). -/
def chunkCountMax : Nat := 2 ^ 32 - 1

/-- The window size of `State.reset`. DESIGN CHOICE (log 1): the spec gives `W` no reset value, it is `construct`'s argument
(R49); 2^25 is the one legal size whose main tree has all 98 slots of the opcode table (R109). -/
def resetWindow : Nat := 2 ^ 25

/-- A free value: draw number `draw` (`State.freeCtr`) gives the unspecified register number `reg`, at index `index` where
that register is an array, some number. No body: nothing can be proved of it (R313, R50; log 5). -/
opaque freeNat (draw reg index : Nat) : Nat

/-- A free sequence of window writes: what the window holds where the spec leaves it unspecified (R313, R50; log 5). -/
opaque freeCells (draw : Nat) : List (Nat × Byte)

/-- A free sequence of bytes: what a byte buffer (register number `reg`) holds where the spec leaves it unspecified (R313;
log 5). -/
opaque freeBytes (draw reg : Nat) : List Byte

end Sys2Proof.Config
end

