-- ==== Sys2Proof/Syntax.lean ====
section
/-! DEFINITION. Syntax.lean: the instruction set: one constructor per row of spec/opcode_table.json (R116), and the types of
their operands. A stream element's trailing fields (the table's `trailing`) are not operands: they follow in the stream and
its meaning reads them there (log 10). -/

namespace Sys2Proof

/-- The four Huffman table kinds (R7, R36). -/
inductive TableKind
  | main
  | len
  | align
  | pre
  deriving DecidableEq, Repr

/-- The persistent length arrays `updateRange` works on (R181): `MAINLEN` and `LENLEN`. -/
inductive LenArray
  | mainLen
  | lenLen
  deriving DecidableEq, Repr

/-- The largest size the array has in any core: `N_MAIN` of the largest window, `N_LEN` (R7). -/
def LenArray.maxSize : LenArray → Nat
  | .mainLen => 1040
  | .lenLen => 249

/-- The instructions: stream elements, component operations and host commands (R116). -/
inductive Instr
  /-- `E8_CLEAR`: E8 flag 0 on a first chunk (R92, R265). -/
  | e8Clear
  /-- `E8_SET`: E8 flag 1 on a first chunk: unsupported (R92, R265). -/
  | e8Set
  /-- `BLOCK_INVALID_0`: Block header with tag 0 (R93, R94). -/
  | blockInvalid0 (size : BitVec 24)
  /-- `BLOCK_VERBATIM`: Block header with tag 1 (R93, R94). -/
  | blockVerbatim (size : BitVec 24)
  /-- `BLOCK_ALIGNED`: Block header with tag 2 (R93, R94). -/
  | blockAligned (size : BitVec 24)
  /-- `BLOCK_UNCOMPRESSED`: Block header with tag 3 (R93, R94). -/
  | blockUncompressed (size : BitVec 24)
  /-- `BLOCK_INVALID_4`: Block header with tag 4 (R93, R94). -/
  | blockInvalid4 (size : BitVec 24)
  /-- `BLOCK_INVALID_5`: Block header with tag 5 (R93, R94). -/
  | blockInvalid5 (size : BitVec 24)
  /-- `BLOCK_INVALID_6`: Block header with tag 6 (R93, R94). -/
  | blockInvalid6 (size : BitVec 24)
  /-- `BLOCK_INVALID_7`: Block header with tag 7 (R93, R94). -/
  | blockInvalid7 (size : BitVec 24)
  /-- `PT_DELTA_0`: Pretree symbol 0 (R100, R182). -/
  | ptDelta0
  /-- `PT_DELTA_1`: Pretree symbol 1 (R100, R182). -/
  | ptDelta1
  /-- `PT_DELTA_2`: Pretree symbol 2 (R100, R182). -/
  | ptDelta2
  /-- `PT_DELTA_3`: Pretree symbol 3 (R100, R182). -/
  | ptDelta3
  /-- `PT_DELTA_4`: Pretree symbol 4 (R100, R182). -/
  | ptDelta4
  /-- `PT_DELTA_5`: Pretree symbol 5 (R100, R182). -/
  | ptDelta5
  /-- `PT_DELTA_6`: Pretree symbol 6 (R100, R182). -/
  | ptDelta6
  /-- `PT_DELTA_7`: Pretree symbol 7 (R100, R182). -/
  | ptDelta7
  /-- `PT_DELTA_8`: Pretree symbol 8 (R100, R182). -/
  | ptDelta8
  /-- `PT_DELTA_9`: Pretree symbol 9 (R100, R182). -/
  | ptDelta9
  /-- `PT_DELTA_10`: Pretree symbol 10 (R100, R182). -/
  | ptDelta10
  /-- `PT_DELTA_11`: Pretree symbol 11 (R100, R182). -/
  | ptDelta11
  /-- `PT_DELTA_12`: Pretree symbol 12 (R100, R182). -/
  | ptDelta12
  /-- `PT_DELTA_13`: Pretree symbol 13 (R100, R182). -/
  | ptDelta13
  /-- `PT_DELTA_14`: Pretree symbol 14 (R100, R182). -/
  | ptDelta14
  /-- `PT_DELTA_15`: Pretree symbol 15 (R100, R182). -/
  | ptDelta15
  /-- `PT_DELTA_16`: Pretree symbol 16 (R100, R182). -/
  | ptDelta16
  /-- `PT_ZERO_RUN_SHORT`: Pretree symbol 17, trailing `z` of 4 bits (R183). -/
  | ptZeroRunShort
  /-- `PT_ZERO_RUN_LONG`: Pretree symbol 18, trailing `z` of 5 bits (R184). -/
  | ptZeroRunLong
  /-- `PT_SAME_RUN`: Pretree symbol 19, trailing `same` bit and `newCode` (R185). -/
  | ptSameRun
  /-- `LITERAL`: Main symbol 0 to 255 (R102, R209). -/
  | literal (byte : BitVec 8)
  /-- `MATCH_SLOT_0`: Main symbol of position slot 0 with length header `lh` (R102, R104). -/
  | matchSlot0 (lh : BitVec 3)
  /-- `MATCH_SLOT_1`: Main symbol of position slot 1 with length header `lh` (R102, R104). -/
  | matchSlot1 (lh : BitVec 3)
  /-- `MATCH_SLOT_2`: Main symbol of position slot 2 with length header `lh` (R102, R104). -/
  | matchSlot2 (lh : BitVec 3)
  /-- `MATCH_SLOT_3`: Main symbol of position slot 3 with length header `lh` (R102, R104). -/
  | matchSlot3 (lh : BitVec 3)
  /-- `MATCH_SLOT_4`: Main symbol of position slot 4 with length header `lh` (R102, R104). -/
  | matchSlot4 (lh : BitVec 3)
  /-- `MATCH_SLOT_5`: Main symbol of position slot 5 with length header `lh` (R102, R104). -/
  | matchSlot5 (lh : BitVec 3)
  /-- `MATCH_SLOT_6`: Main symbol of position slot 6 with length header `lh` (R102, R104). -/
  | matchSlot6 (lh : BitVec 3)
  /-- `MATCH_SLOT_7`: Main symbol of position slot 7 with length header `lh` (R102, R104). -/
  | matchSlot7 (lh : BitVec 3)
  /-- `MATCH_SLOT_8`: Main symbol of position slot 8 with length header `lh` (R102, R104). -/
  | matchSlot8 (lh : BitVec 3)
  /-- `MATCH_SLOT_9`: Main symbol of position slot 9 with length header `lh` (R102, R104). -/
  | matchSlot9 (lh : BitVec 3)
  /-- `MATCH_SLOT_10`: Main symbol of position slot 10 with length header `lh` (R102, R104). -/
  | matchSlot10 (lh : BitVec 3)
  /-- `MATCH_SLOT_11`: Main symbol of position slot 11 with length header `lh` (R102, R104). -/
  | matchSlot11 (lh : BitVec 3)
  /-- `MATCH_SLOT_12`: Main symbol of position slot 12 with length header `lh` (R102, R104). -/
  | matchSlot12 (lh : BitVec 3)
  /-- `MATCH_SLOT_13`: Main symbol of position slot 13 with length header `lh` (R102, R104). -/
  | matchSlot13 (lh : BitVec 3)
  /-- `MATCH_SLOT_14`: Main symbol of position slot 14 with length header `lh` (R102, R104). -/
  | matchSlot14 (lh : BitVec 3)
  /-- `MATCH_SLOT_15`: Main symbol of position slot 15 with length header `lh` (R102, R104). -/
  | matchSlot15 (lh : BitVec 3)
  /-- `MATCH_SLOT_16`: Main symbol of position slot 16 with length header `lh` (R102, R104). -/
  | matchSlot16 (lh : BitVec 3)
  /-- `MATCH_SLOT_17`: Main symbol of position slot 17 with length header `lh` (R102, R104). -/
  | matchSlot17 (lh : BitVec 3)
  /-- `MATCH_SLOT_18`: Main symbol of position slot 18 with length header `lh` (R102, R104). -/
  | matchSlot18 (lh : BitVec 3)
  /-- `MATCH_SLOT_19`: Main symbol of position slot 19 with length header `lh` (R102, R104). -/
  | matchSlot19 (lh : BitVec 3)
  /-- `MATCH_SLOT_20`: Main symbol of position slot 20 with length header `lh` (R102, R104). -/
  | matchSlot20 (lh : BitVec 3)
  /-- `MATCH_SLOT_21`: Main symbol of position slot 21 with length header `lh` (R102, R104). -/
  | matchSlot21 (lh : BitVec 3)
  /-- `MATCH_SLOT_22`: Main symbol of position slot 22 with length header `lh` (R102, R104). -/
  | matchSlot22 (lh : BitVec 3)
  /-- `MATCH_SLOT_23`: Main symbol of position slot 23 with length header `lh` (R102, R104). -/
  | matchSlot23 (lh : BitVec 3)
  /-- `MATCH_SLOT_24`: Main symbol of position slot 24 with length header `lh` (R102, R104). -/
  | matchSlot24 (lh : BitVec 3)
  /-- `MATCH_SLOT_25`: Main symbol of position slot 25 with length header `lh` (R102, R104). -/
  | matchSlot25 (lh : BitVec 3)
  /-- `MATCH_SLOT_26`: Main symbol of position slot 26 with length header `lh` (R102, R104). -/
  | matchSlot26 (lh : BitVec 3)
  /-- `MATCH_SLOT_27`: Main symbol of position slot 27 with length header `lh` (R102, R104). -/
  | matchSlot27 (lh : BitVec 3)
  /-- `MATCH_SLOT_28`: Main symbol of position slot 28 with length header `lh` (R102, R104). -/
  | matchSlot28 (lh : BitVec 3)
  /-- `MATCH_SLOT_29`: Main symbol of position slot 29 with length header `lh` (R102, R104). -/
  | matchSlot29 (lh : BitVec 3)
  /-- `MATCH_SLOT_30`: Main symbol of position slot 30 with length header `lh` (R102, R104). -/
  | matchSlot30 (lh : BitVec 3)
  /-- `MATCH_SLOT_31`: Main symbol of position slot 31 with length header `lh` (R102, R104). -/
  | matchSlot31 (lh : BitVec 3)
  /-- `MATCH_SLOT_32`: Main symbol of position slot 32 with length header `lh` (R102, R104). -/
  | matchSlot32 (lh : BitVec 3)
  /-- `MATCH_SLOT_33`: Main symbol of position slot 33 with length header `lh` (R102, R104). -/
  | matchSlot33 (lh : BitVec 3)
  /-- `MATCH_SLOT_34`: Main symbol of position slot 34 with length header `lh` (R102, R104). -/
  | matchSlot34 (lh : BitVec 3)
  /-- `MATCH_SLOT_35`: Main symbol of position slot 35 with length header `lh` (R102, R104). -/
  | matchSlot35 (lh : BitVec 3)
  /-- `MATCH_SLOT_36`: Main symbol of position slot 36 with length header `lh` (R102, R104). -/
  | matchSlot36 (lh : BitVec 3)
  /-- `MATCH_SLOT_37`: Main symbol of position slot 37 with length header `lh` (R102, R104). -/
  | matchSlot37 (lh : BitVec 3)
  /-- `MATCH_SLOT_38`: Main symbol of position slot 38 with length header `lh` (R102, R104). -/
  | matchSlot38 (lh : BitVec 3)
  /-- `MATCH_SLOT_39`: Main symbol of position slot 39 with length header `lh` (R102, R104). -/
  | matchSlot39 (lh : BitVec 3)
  /-- `MATCH_SLOT_40`: Main symbol of position slot 40 with length header `lh` (R102, R104). -/
  | matchSlot40 (lh : BitVec 3)
  /-- `MATCH_SLOT_41`: Main symbol of position slot 41 with length header `lh` (R102, R104). -/
  | matchSlot41 (lh : BitVec 3)
  /-- `MATCH_SLOT_42`: Main symbol of position slot 42 with length header `lh` (R102, R104). -/
  | matchSlot42 (lh : BitVec 3)
  /-- `MATCH_SLOT_43`: Main symbol of position slot 43 with length header `lh` (R102, R104). -/
  | matchSlot43 (lh : BitVec 3)
  /-- `MATCH_SLOT_44`: Main symbol of position slot 44 with length header `lh` (R102, R104). -/
  | matchSlot44 (lh : BitVec 3)
  /-- `MATCH_SLOT_45`: Main symbol of position slot 45 with length header `lh` (R102, R104). -/
  | matchSlot45 (lh : BitVec 3)
  /-- `MATCH_SLOT_46`: Main symbol of position slot 46 with length header `lh` (R102, R104). -/
  | matchSlot46 (lh : BitVec 3)
  /-- `MATCH_SLOT_47`: Main symbol of position slot 47 with length header `lh` (R102, R104). -/
  | matchSlot47 (lh : BitVec 3)
  /-- `MATCH_SLOT_48`: Main symbol of position slot 48 with length header `lh` (R102, R104). -/
  | matchSlot48 (lh : BitVec 3)
  /-- `MATCH_SLOT_49`: Main symbol of position slot 49 with length header `lh` (R102, R104). -/
  | matchSlot49 (lh : BitVec 3)
  /-- `MATCH_SLOT_50`: Main symbol of position slot 50 with length header `lh` (R102, R104). -/
  | matchSlot50 (lh : BitVec 3)
  /-- `MATCH_SLOT_51`: Main symbol of position slot 51 with length header `lh` (R102, R104). -/
  | matchSlot51 (lh : BitVec 3)
  /-- `MATCH_SLOT_52`: Main symbol of position slot 52 with length header `lh` (R102, R104). -/
  | matchSlot52 (lh : BitVec 3)
  /-- `MATCH_SLOT_53`: Main symbol of position slot 53 with length header `lh` (R102, R104). -/
  | matchSlot53 (lh : BitVec 3)
  /-- `MATCH_SLOT_54`: Main symbol of position slot 54 with length header `lh` (R102, R104). -/
  | matchSlot54 (lh : BitVec 3)
  /-- `MATCH_SLOT_55`: Main symbol of position slot 55 with length header `lh` (R102, R104). -/
  | matchSlot55 (lh : BitVec 3)
  /-- `MATCH_SLOT_56`: Main symbol of position slot 56 with length header `lh` (R102, R104). -/
  | matchSlot56 (lh : BitVec 3)
  /-- `MATCH_SLOT_57`: Main symbol of position slot 57 with length header `lh` (R102, R104). -/
  | matchSlot57 (lh : BitVec 3)
  /-- `MATCH_SLOT_58`: Main symbol of position slot 58 with length header `lh` (R102, R104). -/
  | matchSlot58 (lh : BitVec 3)
  /-- `MATCH_SLOT_59`: Main symbol of position slot 59 with length header `lh` (R102, R104). -/
  | matchSlot59 (lh : BitVec 3)
  /-- `MATCH_SLOT_60`: Main symbol of position slot 60 with length header `lh` (R102, R104). -/
  | matchSlot60 (lh : BitVec 3)
  /-- `MATCH_SLOT_61`: Main symbol of position slot 61 with length header `lh` (R102, R104). -/
  | matchSlot61 (lh : BitVec 3)
  /-- `MATCH_SLOT_62`: Main symbol of position slot 62 with length header `lh` (R102, R104). -/
  | matchSlot62 (lh : BitVec 3)
  /-- `MATCH_SLOT_63`: Main symbol of position slot 63 with length header `lh` (R102, R104). -/
  | matchSlot63 (lh : BitVec 3)
  /-- `MATCH_SLOT_64`: Main symbol of position slot 64 with length header `lh` (R102, R104). -/
  | matchSlot64 (lh : BitVec 3)
  /-- `MATCH_SLOT_65`: Main symbol of position slot 65 with length header `lh` (R102, R104). -/
  | matchSlot65 (lh : BitVec 3)
  /-- `MATCH_SLOT_66`: Main symbol of position slot 66 with length header `lh` (R102, R104). -/
  | matchSlot66 (lh : BitVec 3)
  /-- `MATCH_SLOT_67`: Main symbol of position slot 67 with length header `lh` (R102, R104). -/
  | matchSlot67 (lh : BitVec 3)
  /-- `MATCH_SLOT_68`: Main symbol of position slot 68 with length header `lh` (R102, R104). -/
  | matchSlot68 (lh : BitVec 3)
  /-- `MATCH_SLOT_69`: Main symbol of position slot 69 with length header `lh` (R102, R104). -/
  | matchSlot69 (lh : BitVec 3)
  /-- `MATCH_SLOT_70`: Main symbol of position slot 70 with length header `lh` (R102, R104). -/
  | matchSlot70 (lh : BitVec 3)
  /-- `MATCH_SLOT_71`: Main symbol of position slot 71 with length header `lh` (R102, R104). -/
  | matchSlot71 (lh : BitVec 3)
  /-- `MATCH_SLOT_72`: Main symbol of position slot 72 with length header `lh` (R102, R104). -/
  | matchSlot72 (lh : BitVec 3)
  /-- `MATCH_SLOT_73`: Main symbol of position slot 73 with length header `lh` (R102, R104). -/
  | matchSlot73 (lh : BitVec 3)
  /-- `MATCH_SLOT_74`: Main symbol of position slot 74 with length header `lh` (R102, R104). -/
  | matchSlot74 (lh : BitVec 3)
  /-- `MATCH_SLOT_75`: Main symbol of position slot 75 with length header `lh` (R102, R104). -/
  | matchSlot75 (lh : BitVec 3)
  /-- `MATCH_SLOT_76`: Main symbol of position slot 76 with length header `lh` (R102, R104). -/
  | matchSlot76 (lh : BitVec 3)
  /-- `MATCH_SLOT_77`: Main symbol of position slot 77 with length header `lh` (R102, R104). -/
  | matchSlot77 (lh : BitVec 3)
  /-- `MATCH_SLOT_78`: Main symbol of position slot 78 with length header `lh` (R102, R104). -/
  | matchSlot78 (lh : BitVec 3)
  /-- `MATCH_SLOT_79`: Main symbol of position slot 79 with length header `lh` (R102, R104). -/
  | matchSlot79 (lh : BitVec 3)
  /-- `MATCH_SLOT_80`: Main symbol of position slot 80 with length header `lh` (R102, R104). -/
  | matchSlot80 (lh : BitVec 3)
  /-- `MATCH_SLOT_81`: Main symbol of position slot 81 with length header `lh` (R102, R104). -/
  | matchSlot81 (lh : BitVec 3)
  /-- `MATCH_SLOT_82`: Main symbol of position slot 82 with length header `lh` (R102, R104). -/
  | matchSlot82 (lh : BitVec 3)
  /-- `MATCH_SLOT_83`: Main symbol of position slot 83 with length header `lh` (R102, R104). -/
  | matchSlot83 (lh : BitVec 3)
  /-- `MATCH_SLOT_84`: Main symbol of position slot 84 with length header `lh` (R102, R104). -/
  | matchSlot84 (lh : BitVec 3)
  /-- `MATCH_SLOT_85`: Main symbol of position slot 85 with length header `lh` (R102, R104). -/
  | matchSlot85 (lh : BitVec 3)
  /-- `MATCH_SLOT_86`: Main symbol of position slot 86 with length header `lh` (R102, R104). -/
  | matchSlot86 (lh : BitVec 3)
  /-- `MATCH_SLOT_87`: Main symbol of position slot 87 with length header `lh` (R102, R104). -/
  | matchSlot87 (lh : BitVec 3)
  /-- `MATCH_SLOT_88`: Main symbol of position slot 88 with length header `lh` (R102, R104). -/
  | matchSlot88 (lh : BitVec 3)
  /-- `MATCH_SLOT_89`: Main symbol of position slot 89 with length header `lh` (R102, R104). -/
  | matchSlot89 (lh : BitVec 3)
  /-- `MATCH_SLOT_90`: Main symbol of position slot 90 with length header `lh` (R102, R104). -/
  | matchSlot90 (lh : BitVec 3)
  /-- `MATCH_SLOT_91`: Main symbol of position slot 91 with length header `lh` (R102, R104). -/
  | matchSlot91 (lh : BitVec 3)
  /-- `MATCH_SLOT_92`: Main symbol of position slot 92 with length header `lh` (R102, R104). -/
  | matchSlot92 (lh : BitVec 3)
  /-- `MATCH_SLOT_93`: Main symbol of position slot 93 with length header `lh` (R102, R104). -/
  | matchSlot93 (lh : BitVec 3)
  /-- `MATCH_SLOT_94`: Main symbol of position slot 94 with length header `lh` (R102, R104). -/
  | matchSlot94 (lh : BitVec 3)
  /-- `MATCH_SLOT_95`: Main symbol of position slot 95 with length header `lh` (R102, R104). -/
  | matchSlot95 (lh : BitVec 3)
  /-- `MATCH_SLOT_96`: Main symbol of position slot 96 with length header `lh` (R102, R104). -/
  | matchSlot96 (lh : BitVec 3)
  /-- `MATCH_SLOT_97`: Main symbol of position slot 97 with length header `lh` (R102, R104). -/
  | matchSlot97 (lh : BitVec 3)
  /-- `LEN_HDR_0`: Length header 0 (R103, R210). -/
  | lenHdr0
  /-- `LEN_HDR_1`: Length header 1 (R103, R210). -/
  | lenHdr1
  /-- `LEN_HDR_2`: Length header 2 (R103, R210). -/
  | lenHdr2
  /-- `LEN_HDR_3`: Length header 3 (R103, R210). -/
  | lenHdr3
  /-- `LEN_HDR_4`: Length header 4 (R103, R210). -/
  | lenHdr4
  /-- `LEN_HDR_5`: Length header 5 (R103, R210). -/
  | lenHdr5
  /-- `LEN_HDR_6`: Length header 6 (R103, R210). -/
  | lenHdr6
  /-- `LEN_HDR_7`: Length header 7 (R103, R210). -/
  | lenHdr7
  /-- `LENGTH_SYMBOL`: Length-tree symbol, 0 to 248 (R103). -/
  | lengthSymbol (t : BitVec 8)
  /-- `ALIGNED_SYMBOL`: Aligned-tree symbol (R106). -/
  | alignedSymbol (a : BitVec 3)
  /-- `UNCOMPRESSED_R_VALUES`: The three offsets of an Uncompressed block body (R95, R203). -/
  | uncompressedRValues (r0 : BitVec 32) (r1 : BitVec 32) (r2 : BitVec 32)
  /-- `RAW_BYTES`: Raw bytes of an Uncompressed block (R95, R208). -/
  | rawBytes
  /-- `ALIGNED_LENGTHS`: Eight 3-bit aligned-tree lengths, `l0` in bits 23..21 (R98, R189). -/
  | alignedLengths (l : BitVec 24)
  /-- `PRETREE_LENGTHS`: Twenty 4-bit pretree lengths, `l_k` in bits 79-4k..76-4k (R99, R180). -/
  | pretreeLengths (l : BitVec 80)
  /-- `FOOTER_BITS_FIELD`: The raw offset bits of a match (R105, R106). -/
  | footerBitsField
  /-- `ALIGN_PADDING`: The padding before an Uncompressed block body (R95, R137). -/
  | alignPadding
  /-- `PAD_BYTE`: The byte after an odd-sized Uncompressed block (R117, R267). -/
  | padByte
  /-- `CHUNK_TAIL`: What follows the last needed element of a chunk (R91). -/
  | chunkTail
  /-- `BR.load`: R130. -/
  | brLoad (data : List Byte)
  /-- `fetchWord`: R131. -/
  | fetchWord
  /-- `readBits`: R132, `n ≤ 32`. -/
  | readBits (n : Nat)
  /-- `peekBits`: R133, `n ≤ 32`. -/
  | peekBits (n : Nat)
  /-- `readU32le`: R134. -/
  | readU32le
  /-- `readU24be`: R135. -/
  | readU24be
  /-- `readByte`: R136. -/
  | readByte
  /-- `align`: R137. -/
  | align
  /-- `readBytes`: R138. -/
  | readBytes (n : Nat)
  /-- `readBytesInto`: R138 with the window as destination. -/
  | readBytesInto (n : Nat)
  /-- `inputRemaining`: R140. -/
  | inputRemaining
  /-- `buildTable`: R160. -/
  | buildTable (k : TableKind)
  /-- `decodeSymbol`: R164. -/
  | decodeSymbol (k : TableKind)
  /-- `readPretree`: R180. -/
  | readPretree
  /-- `updateRange`: R181: update positions `start .. stop-1` of `t`. -/
  | updateRange (t : LenArray) (start : Nat) (stop : Nat)
  /-- `readTables`: R188. -/
  | readTables
  /-- `readAlignedTree`: R189. -/
  | readAlignedTree
  /-- `readBlock`: R201. -/
  | readBlock
  /-- `readUncompressedBody`: R203. -/
  | readUncompressedBody
  /-- `decodeElement`: R207. -/
  | decodeElement
  /-- `decodeUncompressed`: R208. -/
  | decodeUncompressed
  /-- `decodeCoded`: R209. -/
  | decodeCoded
  /-- `matchLength`: R210. -/
  | matchLength (lh : BitVec 3)
  /-- `matchOffset.slot0`: R211. -/
  | matchOffsetSlot0
  /-- `matchOffset.slot1`: R212. -/
  | matchOffsetSlot1
  /-- `matchOffset.slot2`: R213. -/
  | matchOffsetSlot2
  /-- `matchOffset.verbatim`: R214, slot 3 to 97. -/
  | matchOffsetVerbatim (slot : Nat)
  /-- `matchOffset.aligned`: R215, slot 8 to 97. -/
  | matchOffsetAligned (slot : Nat)
  /-- `matchOffset.aligned_short`: R216, slot 3 to 7. -/
  | matchOffsetAlignedShort (slot : Nat)
  /-- `pushOffset`: R217. -/
  | pushOffset (offset : BitVec 32)
  /-- `push`: R240. -/
  | push (byte : BitVec 8)
  /-- `copyFromSelf`: R241. -/
  | copyFromSelf (offset : Nat) (length : Nat)
  /-- `copyFromBitstream`: R244. -/
  | copyFromBitstream (n : Nat)
  /-- `pastView`: R245, `n ≤ 32768`. -/
  | pastView (n : Nat)
  /-- `construct`: R261. -/
  | construct (windowSize : Nat)
  /-- `reset`: R262. -/
  | reset
  /-- `decompressChunkInto`: R263: `len` is the length of `data`, the output buffer is `State.out`. -/
  | decompressChunkInto (data : List Byte) (outputSize : Nat)
  /-- `decompressChunk`: R272: `none` is the default 32768. -/
  | decompressChunk (data : List Byte) (outputSize : Option Nat)
  deriving DecidableEq, Repr

/-- What the host can issue (R260). -/
inductive HostCommand
  /-- `construct(W)` (R261). -/
  | construct (windowSize : Nat)
  /-- `reset()` (R262). -/
  | reset
  /-- `decompressChunkInto(data, len, output, outputSize)` (R263). -/
  | decompressChunkInto (data : List Byte) (outputSize : Nat)
  /-- `decompressChunk(data, len, outputSize)` (R272). -/
  | decompressChunk (data : List Byte) (outputSize : Option Nat)
  deriving DecidableEq, Repr

/-- The instruction a host command is. -/
def HostCommand.toInstr : HostCommand → Instr
  | .construct windowSize => .construct windowSize
  | .reset => .reset
  | .decompressChunkInto data outputSize => .decompressChunkInto data outputSize
  | .decompressChunk data outputSize => .decompressChunk data outputSize

end Sys2Proof
end

