-- ==== Sys2Proof/Machine/Tables.lean ====
section
/-! DEFINITION. Tables.lean: the constant tables (R21 (a), R107 to R109). -/

namespace Sys2Proof.Machine

/-- `POSITION_SLOTS_TABLE`: the nine legal window sizes and their slot counts, as the source prints them (R6, R109; log 14). -/
def positionSlotsTable : List (Nat × Nat) :=
  [(2 ^ 17, 30), (2 ^ 18, 32), (2 ^ 19, 34), (2 ^ 20, 36), (2 ^ 21, 38), (2 ^ 22, 42), (2 ^ 23, 50), (2 ^ 24, 66), (2 ^ 25, 98)]

/-- `POSITION_SLOTS(W)`: none for a window size that has no entry (R109). -/
def positionSlots? (windowSize : Nat) : Option Nat := positionSlotsTable.lookup windowSize

/-- `FOOTER_BITS[i]`, 289 entries (R107; PRESUMED by the spec from general knowledge, log 12). -/
def footerBits (i : Nat) : Nat := if i < 2 then 0 else min 17 (i / 2 - 1)

/-- `BASE_POSITION[i]`, 290 entries (R108; PRESUMED by the spec from general knowledge, log 12). -/
def basePosition : Nat → Nat
  | 0 => 0
  | i + 1 => basePosition i + 2 ^ footerBits i

/-- `N_LEN`, `N_ALIGN`, `N_PRE` (R7). -/
def nLen : Nat := 249
def nAlign : Nat := 8
def nPre : Nat := 20

/-- `N_MAIN = 256 + 8*S` (R7). -/
def nMain (positionSlots : Nat) : Nat := 256 + 8 * positionSlots

end Sys2Proof.Machine
end

