-- ==== Sys2Proof/Machine/State.lean ====
section
/-! DEFINITION. State.lean: every piece of state the spec gives the core (10_state.md), as plain data, with the sequencer's own
registers (the local variables of a running operation); the reasons a step stops; the state after reset (R49). -/

namespace Sys2Proof.Machine

/-- The BitReader (R22 to R24). -/
structure Reader where
  /-- `IN`: the chunk input (R22). -/
  data : List Byte
  /-- `BR.len` (R22). -/
  len : Nat
  /-- `BR.bytePos`: address of the next byte not yet fetched or taken (R23). -/
  bytePos : Nat
  /-- `BR.currentWord`, kept as fetched (R24, R25). -/
  currentWord : Word16
  /-- `BR.bitsLeft`: how many low bits of `currentWord` are pending, 0 to 16 (R24, R25). -/
  bitsLeft : Nat
  deriving DecidableEq, Repr

/-- The repeated-offset cache `(REP0, REP1, REP2)` (R28). -/
structure OffsetCache where
  r0 : Word32
  r1 : Word32
  r2 : Word32
  deriving DecidableEq, Repr

/-- `BLK.kind` (R29). -/
inductive BlockKind
  | none
  | verbatim
  | aligned
  | uncompressed
  deriving DecidableEq, Repr

/-- The current block (R29, R30). -/
structure Block where
  kind : BlockKind
  size : Nat
  remaining : Nat
  r0 : Word32
  r1 : Word32
  r2 : Word32
  deriving DecidableEq, Repr

/-- One Huffman table kind: `KLEN`, `K.maxLength`, `KTAB`, `K.present` (R32 to R36). -/
structure Table where
  lens : List Nat
  maxLength : Nat
  tab : List Nat
  present : Bool
  deriving DecidableEq, Repr

/-- The sliding window: the bytes of `WIN` that are not 0x00, in strictly rising address order, and `WPOS` (R38, R39). -/
structure Window where
  cells : List Host.Cell
  pos : Nat
  deriving DecidableEq, Repr

/-- `CFG.windowSize` and `CFG.positionSlots` (R41). -/
structure Cfg where
  windowSize : Nat
  positionSlots : Nat
  deriving DecidableEq, Repr

/-- `FAULT.flag`, `FAULT.code`, `FAULT.info` (R44). -/
structure FaultStatus where
  flag : Bool
  code : BitVec 4
  info : BitVec 4
  deriving DecidableEq, Repr

/-- The running chunk command: its `outputSize` and `produced` (R45), and whether its result is the bytes (R272). -/
structure Command where
  outputSize : Nat
  produced : Nat
  wantBytes : Bool
  deriving DecidableEq, Repr

/-- `updateRange`'s `T`, `i`, `end` (R181). -/
structure Update where
  target : LenArray
  pos : Nat
  stop : Nat
  deriving DecidableEq, Repr

/-- `readBlock`'s `kind` and `size` (R201). -/
structure Header where
  kind : BlockKind
  size : Nat
  deriving DecidableEq, Repr

/-- The locals of a match being decoded: `slot`, `length`, `v`, `offset` (R209 to R215). -/
structure MatchLocals where
  slot : Nat
  length : Nat
  v : Nat
  offset : Word32
  deriving DecidableEq, Repr

/-- What one step of the decode loop yields (R207). -/
inductive Element
  | literal (byte : Byte)
  | matched (offset : Word32) (length : Nat)
  | bulkRead (n : Nat)
  deriving DecidableEq, Repr

/-- The value an operation returns to its caller. -/
inductive Returned
  | none
  | num (n : Nat)
  | bytes (bs : List Byte)
  | element (e : Element)
  deriving DecidableEq, Repr

/-- Sub-kinds of `OutOfBounds` (R300, R301). -/
inductive OutOfBoundsCause
  | wordFetch
  | peek
  | byteRead
  | bytesRead
  deriving DecidableEq, Repr

/-- Sub-kinds of `CorruptTable` (R300, R304). -/
inductive TableDefect
  | incomplete
  | oversubscribed
  | empty
  | pretreeSymbol
  | newCode
  | runOverflow
  | absentLengthTree
  deriving DecidableEq, Repr

/-- The faults of the hardware (R300). Taking one is a next state (R313), not a stop of the machine. -/
inductive FaultKind
  | outOfBounds (cause : OutOfBoundsCause)
  | invalidBlockType (tag : BitVec 4)
  | zeroSizeBlock
  | corruptTable (defect : TableDefect)
  | decodeOverrun
  | unsupportedE8
  | invalidConfiguration
  | internalInvariant
  | windowRangeZero
  | windowRangeAbove
  deriving DecidableEq, Repr

/-- Why the core refuses a host command: the reasons of `HostContract`, code 10 of R300, with the numbers `RefusalReason.info` (R310). A
refusal of the hardware is a next state too (log 7). -/
inductive RefusalReason
  | notConstructed
  | faulted
  | outputSizeRange
  | inputLengthRange
  deriving DecidableEq, Repr

/-- The outcome of a host command, as the host sees it (R12, R260). -/
inductive HostResult
  /-- No command has ended since reset, or one is running. -/
  | none
  /-- `construct` or `reset` completed. -/
  | completed
  /-- `decompressChunkInto` completed: `bytesWritten`. -/
  | bytesWritten (n : Nat)
  /-- `decompressChunk` completed: its bytes. -/
  | bytes (bs : List Byte)
  /-- `Fault(code, info)`. -/
  | fault (code info : BitVec 4)
  /-- `Refused(reason)`; `HostResult.status` gives its code and info (R300). -/
  | refused (reason : RefusalReason)
  deriving DecidableEq, Repr

/-- The three range updates of a block body, in order (R188). -/
inductive UpdateStage
  | literals
  | matches
  | lengths
  deriving DecidableEq, Repr

/-- What the running command does next: the place in the pseudocode of R263, R201, R188 (log 10). -/
inductive Phase
  /-- No command runs. -/
  | idle
  /-- Step 2: the E8 bit (R265). -/
  | e8
  /-- Step 3a: the pad byte owed (R267). -/
  | padByte
  /-- Step 3a: a block header (R201). -/
  | header
  /-- The padding of an Uncompressed body (R203). -/
  | alignPad
  /-- The three offsets of an Uncompressed body (R203). -/
  | rValues
  /-- The aligned lengths of an Aligned body (R189). -/
  | alignedLens
  /-- The pretree lengths of a range update (R180). -/
  | pretreeLens (stage : UpdateStage)
  /-- A pretree symbol of a range update (R181). -/
  | pretreeSym (stage : UpdateStage)
  /-- Step 3b: an element of the current block (R207). -/
  | element
  /-- Steps 4 and 5: the output is complete, the rest of the chunk is its tail (R91, R263). -/
  | tail
  deriving DecidableEq, Repr

/-- The state of the core. -/
structure State where
  /-- `CFG.*` (R41). -/
  cfg : Cfg
  /-- `CONSTRUCTED` (R50). -/
  constructed : Bool
  /-- `IN` and `BR.*` (R22 to R24). -/
  br : Reader
  /-- `REP0..REP2` (R28). -/
  rep : OffsetCache
  /-- `BLK.*` (R29, R30). -/
  blk : Block
  /-- `MAINLEN` and the main table (R32, R36). -/
  main : Table
  /-- `LENLEN` and the length table (R33, R36). -/
  len : Table
  /-- `ALIGNLEN` and the aligned table (R34, R36). -/
  align : Table
  /-- `PRELEN` and the pretree (R35, R36). -/
  pre : Table
  /-- `WIN` and `WPOS` (R38, R39). -/
  win : Window
  /-- `chunkOffset`, 64 bits, wrapping (R42). -/
  chunkOffset : BitVec 64
  /-- `decodedChunks`, saturating at 2^32 - 1 (R43). -/
  decodedChunks : Nat
  /-- `FAULT.*` (R44). -/
  fault : FaultStatus
  /-- `outputSize`, `produced` (R45). -/
  cmd : Command
  /-- `OUT`: the bytes written to the output buffer, in address order from 0 (R45, R60; log 17). -/
  out : List Byte
  /-- The sequencer's place (log 10). -/
  phase : Phase
  /-- Locals of `updateRange` (R181). -/
  upd : Update
  /-- Locals of `readBlock` (R201). -/
  hdr : Header
  /-- Locals of a match (R209 to R215). -/
  elt : MatchLocals
  /-- The value the latest operation returned (log 3). -/
  ret : Returned
  /-- The outcome of the latest host command (R12, R260). -/
  result : HostResult
  /-- The commands the host has issued and the core has not started, oldest first (R260; log 8). -/
  host : List HostCommand
  /-- How many times free values have been drawn (log 5). -/
  freeCtr : Nat
  deriving DecidableEq, Repr

/-- Why the MODEL stops. Every one is raised only in states or on operands no run of the hardware reaches; none is a fault of
the hardware (those are `FaultKind`). -/
inductive Fault
  /-- `decodeSymbol` looked up an index its table does not have. R37 rules it out for every table `buildTable` built. Safe: the
  model stops. -/
  | brokenTable
  /-- A match with a position slot at or above `S`: the main table of this core has no such symbol (R104, R111). Safe. -/
  | noSuchSymbol
  /-- A pretree symbol executed with no table update in progress, `i ≥ end` (R181 decodes one only while `i < end`). Safe. -/
  | noUpdate
  /-- `decodeElement` called while the current block owes nothing, against its precondition (R207). Safe. -/
  | noBlock
  /-- A stream element fetched while no command runs: `step` fetches only while one does. Safe. -/
  | idleFetch
  deriving DecidableEq, Repr

/-- Why the MODEL has no meaning for an instruction. -/
inductive Refusal
  /-- An instruction `exec` has no meaning for yet. Safe. -/
  | notModelled (mnemonic : String)
  /-- An operation called outside the domain the spec gives it (R132 (d), R181, R214 to R216, R245; log 15). Safe. -/
  | outsideDomain
  deriving DecidableEq, Repr

/-- An outcome of this machine. -/
abbrev Outcome := Host.Outcome State Fault Refusal

/-- A table never built: `n` lengths of 0, no entries (R36, R49). -/
def Table.absent (n : Nat) : Table := ⟨List.replicate n 0, 0, [], false⟩

/-- A reader with no input (R26; the registers' values at reset, where the spec gives them no meaning, are log 2). -/
def Reader.none : Reader := ⟨[], 0, 0, 0, 0⟩

/-- Every reset value of R49 for a configuration. `BLK.r0..r2`, `BR.*`, `outputSize`, `produced`, `OUT` have none there: log 2. -/
def State.initial (cfg : Cfg) : State where
  cfg := cfg
  constructed := true
  br := Reader.none
  rep := ⟨1, 1, 1⟩
  blk := ⟨.none, 0, 0, 0, 0, 0⟩
  main := Table.absent (nMain cfg.positionSlots)
  len := Table.absent nLen
  align := Table.absent nAlign
  pre := Table.absent nPre
  win := ⟨[], 0⟩
  chunkOffset := 0
  decodedChunks := 0
  fault := ⟨false, 0, 0⟩
  cmd := ⟨0, 0, false⟩
  out := []
  phase := .idle
  upd := ⟨.mainLen, 0, 0⟩
  hdr := ⟨.none, 0⟩
  elt := ⟨0, 0, 0, 0⟩
  ret := .none
  result := .none
  host := []
  freeCtr := 0

/-- The state after `reset()` on a core constructed with window size `w` (R49). -/
def State.resetOf (w : Nat) : State := State.initial ⟨w, (positionSlots? w).getD 0⟩

/-- The state right after reset (R49), for the window size of `Config.resetWindow` (log 1). -/
def State.reset : State := State.resetOf Config.resetWindow

end Sys2Proof.Machine
end

