-- ==== Sys2Proof/Machine/Ops.lean ====
section
/-! DEFINITION. Ops.lean: the named operations over the byte spaces and registers, and taking a fault (R313) with the return from
one (R314). -/

namespace Sys2Proof.Machine

/-! ### Named register writes -/

def State.setBr (s : State) (v : Reader) : State := { s with br := v }
def State.setRep (s : State) (v : OffsetCache) : State := { s with rep := v }
def State.setBlk (s : State) (v : Block) : State := { s with blk := v }
def State.setWin (s : State) (v : Window) : State := { s with win := v }
def State.setCmd (s : State) (v : Command) : State := { s with cmd := v }
def State.setPhase (s : State) (v : Phase) : State := { s with phase := v }
def State.setUpd (s : State) (v : Update) : State := { s with upd := v }
def State.setHdr (s : State) (v : Header) : State := { s with hdr := v }
def State.setElt (s : State) (v : MatchLocals) : State := { s with elt := v }
def State.setRet (s : State) (v : Returned) : State := { s with ret := v }
def State.setResult (s : State) (v : HostResult) : State := { s with result := v }

/-- The table of a kind (R36). -/
def State.table (s : State) : TableKind → Table
  | .main => s.main
  | .len => s.len
  | .align => s.align
  | .pre => s.pre

def State.setTable (s : State) (k : TableKind) (v : Table) : State :=
  match k with
  | .main => { s with main := v }
  | .len => { s with len := v }
  | .align => { s with align := v }
  | .pre => { s with pre := v }

/-- The table kind whose lengths an array of `updateRange` is (R181). -/
def lensKind : LenArray → TableKind
  | .mainLen => .main
  | .lenLen => .len

/-! ### Operations that may fault -/

/-- How an operation ends (R12): with a value and a state, with a fault of the hardware, or, on states no run reaches, with a stop
of the model. -/
inductive Res (α : Type)
  | ok (a : α) (s : State)
  | raise (k : FaultKind)
  | stuck (r : Fault)

/-- An operation of a component. -/
abbrev Op (α : Type) := State → Res α

def Op.pure {α : Type} (a : α) : Op α := fun s => .ok a s

/-- One operation, then another on the state it leaves: "executed in order, one statement after another" (R11). -/
def Op.bind {α β : Type} (m : Op α) (f : α → Op β) : Op β := fun s =>
  match m s with
  | .ok a t => f a t
  | .raise k => .raise k
  | .stuck r => .stuck r

def Op.andThen {α β : Type} (m : Op α) (n : Op β) : Op β := m.bind fun _ => n

/-- `raise <Fault>` (R11): everything that encloses it is abandoned (R313 (1)). -/
def Op.raise {α : Type} (k : FaultKind) : Op α := fun _ => .raise k

def Op.stuck {α : Type} (r : Fault) : Op α := fun _ => .stuck r

/-- Read registers. -/
def Op.get {α : Type} (f : State → α) : Op α := fun s => .ok (f s) s

/-- Write registers. -/
def Op.modify (f : State → State) : Op Unit := fun s => .ok () (f s)

/-! ### The window: a byte memory in canonical form (R38, R60) -/

/-- The byte at an address: 0x00 where nothing is listed (R38). -/
def memRead : List Host.Cell → Nat → Byte
  | [], _ => 0
  | (k, v) :: rest, a => if k = a then v else memRead rest a

/-- Write one byte, keeping the addresses rising and no 0x00 listed. -/
def memWrite : List Host.Cell → Nat → Byte → List Host.Cell
  | [], a, b => if b = 0 then [] else [(a, b)]
  | (k, v) :: rest, a, b =>
    if a < k then (if b = 0 then (k, v) :: rest else (a, b) :: (k, v) :: rest)
    else if a = k then (if b = 0 then rest else (a, b) :: rest)
    else (k, v) :: memWrite rest a b

/-- The canonical form: addresses at or above `lo` and strictly rising, no byte 0x00. -/
def memWfFrom : Nat → List Host.Cell → Bool
  | _, [] => true
  | lo, (k, v) :: rest => decide (lo ≤ k) && (v != 0) && memWfFrom (k + 1) rest

/-- The canonical form of a memory. -/
def memWf (cells : List Host.Cell) : Bool := memWfFrom 0 cells

/-- Every listed address is below `bound`. -/
def memBelow (bound : Nat) (cells : List Host.Cell) : Bool := cells.all fun c => decide (c.1 < bound)

/-- `push(b)` (R240): write at `WPOS`, advance modulo `W`. -/
def Window.push (w : Window) (size : Nat) (b : Byte) : Window :=
  ⟨memWrite w.cells w.pos b, (w.pos + 1) % size⟩

/-- `H(k) = WIN[(WPOS - k) mod W]` (R40), the difference computed as `WPOS + W - k` (R115 (e)). -/
def Window.history (w : Window) (size k : Nat) : Byte := memRead w.cells ((w.pos + size - k) % size)

/-- `copyFromSelf`'s loop (R241): byte by byte, each read after the writes before it. -/
def Window.copy (w : Window) (size offset : Nat) : Nat → Window
  | 0 => w
  | n + 1 => Window.copy (w.push size (w.history size offset)) size offset n

/-- Push bytes one by one in order (R244). -/
def Window.pushAll (w : Window) (size : Nat) : List Byte → Window
  | [] => w
  | b :: rest => Window.pushAll (w.push size b) size rest

/-- `pastView(n)` (R245): `H(n), ..., H(1)`, oldest first. -/
def Window.view (w : Window) (size n : Nat) : List Byte := (List.range n).map fun k => w.history size (n - k)

/-! ### The BitReader (R130 to R140) -/

/-- `BR.load` (R130). -/
def Reader.load (data : List Byte) : Reader := ⟨data, data.length, 0, 0, 0⟩

/-- One byte of `IN`. Its callers have checked the bound (R11, R81). -/
def Reader.byteAt (r : Reader) (a : Nat) : Byte := r.data.getD a 0

/-- The stream word at a byte address: the byte at the lower address is the low half (R64). -/
def Reader.wordAt (r : Reader) (a : Nat) : Word16 := r.byteAt (a + 1) ++ r.byteAt a

/-- `fetchWord()` (R131). -/
def Reader.fetchWord (r : Reader) : Except FaultKind Reader :=
  if r.bytePos + 2 > r.len then .error (.outOfBounds .wordFetch)
  else .ok { r with currentWord := r.wordAt r.bytePos, bitsLeft := 16, bytePos := r.bytePos + 2 }

/-- Take the next stream bit, fetching a word only when none is pending (R25, R132). -/
def Reader.readBit (r : Reader) : Except FaultKind (Bool × Reader) :=
  match (if r.bitsLeft = 0 then r.fetchWord else .ok r) with
  | .error k => .error k
  | .ok q => .ok (q.currentWord.getLsbD (q.bitsLeft - 1), { q with bitsLeft := q.bitsLeft - 1 })

/-- `readBits` bit by bit (R132): `acc` holds the bits taken so far. -/
def Reader.readBitsFrom : Nat → Nat → Reader → Except FaultKind (Nat × Reader)
  | 0, acc, r => .ok (acc, r)
  | n + 1, acc, r =>
    match r.readBit with
    | .error k => .error k
    | .ok (b, q) => Reader.readBitsFrom n (2 * acc + b.toNat) q

/-- `readBits(n)` (R132). -/
def Reader.readBits (r : Reader) (n : Nat) : Except FaultKind (Nat × Reader) := Reader.readBitsFrom n 0 r

/-- A byte of a tolerant peek: 0x00 past the end (R133 (b)). -/
def Reader.byteOrZero (r : Reader) (a : Nat) : Byte := if a < r.len then r.byteAt a else 0

/-- `peekBits`'s loop (R133) on its local copies `w`, `k`, `p`; `tolerant` is `n ≤ 16`. -/
def Reader.peekBitsFrom (r : Reader) (tolerant : Bool) : Nat → Nat → Word16 → Nat → Nat → Except FaultKind Nat
  | 0, acc, _, _, _ => .ok acc
  | n + 1, acc, w, k, p =>
    if k = 0 then
      if tolerant then
        let w' : Word16 := r.byteOrZero (p + 1) ++ r.byteOrZero p
        r.peekBitsFrom tolerant n (2 * acc + (w'.getLsbD 15).toNat) w' 15 (p + 2)
      else if p + 2 > r.len then .error (.outOfBounds .peek)
      else r.peekBitsFrom tolerant n (2 * acc + ((r.wordAt p).getLsbD 15).toNat) (r.wordAt p) 15 (p + 2)
    else r.peekBitsFrom tolerant n (2 * acc + (w.getLsbD (k - 1)).toNat) w (k - 1) p

/-- `peekBits(n)` (R133): the reader is not written. -/
def Reader.peekBits (r : Reader) (n : Nat) : Except FaultKind Nat :=
  r.peekBitsFrom (decide (n ≤ 16)) n 0 r.currentWord r.bitsLeft r.bytePos

/-- `readByte()` (R136): pending bits neither consulted nor changed. -/
def Reader.readByte (r : Reader) : Except FaultKind (Byte × Reader) :=
  if r.bytePos + 1 > r.len then .error (.outOfBounds .byteRead)
  else .ok (r.byteAt r.bytePos, { r with bytePos := r.bytePos + 1 })

/-- `align()` (R137): with no pending bits a whole word is skipped, unread and unchecked. -/
def Reader.align (r : Reader) : Reader :=
  if r.bitsLeft = 0 then { r with bytePos := r.bytePos + 2 } else { r with bitsLeft := 0 }

/-- `readBytes(n)` (R138): one bounds test, before any byte is taken. -/
def Reader.readBytes (r : Reader) (n : Nat) : Except FaultKind (List Byte × Reader) :=
  if r.bytePos + n > r.len then .error (.outOfBounds .bytesRead)
  else .ok ((List.range n).map fun k => r.byteAt (r.bytePos + k), { r with bytePos := r.bytePos + n })

/-- `inputRemaining()` (R140). -/
def Reader.remaining (r : Reader) : Nat := r.len - r.bytePos

/-- Run a reader operation on `BR`. -/
def onReader {α : Type} (f : Reader → Except FaultKind (α × Reader)) : Op α := fun s =>
  match f s.br with
  | .ok (a, r) => .ok a (s.setBr r)
  | .error k => .raise k

def fetchWord : Op Unit := onReader fun r => r.fetchWord.map fun q => ((), q)
def readBits (n : Nat) : Op Nat := onReader fun r => r.readBits n
def peekBits (n : Nat) : Op Nat := onReader fun r => (r.peekBits n).map fun v => (v, r)
def readByte : Op Byte := onReader fun r => r.readByte
def align : Op Unit := onReader fun r => .ok ((), r.align)
def readBytes (n : Nat) : Op (List Byte) := onReader fun r => r.readBytes n
def inputRemaining : Op Nat := Op.get fun s => s.br.remaining

/-- `readU32le()` (R134): the first 16 bits read are the low half. -/
def readU32le : Op Word32 :=
  (readBits 16).bind fun lo => (readBits 16).bind fun hi => Op.pure (BitVec.ofNat 32 (hi * 2 ^ 16 + lo))

/-- `readU24be()` (R135). -/
def readU24be : Op (BitVec 24) :=
  (readBits 16).bind fun hi => (readBits 8).bind fun lo => Op.pure (BitVec.ofNat 24 (hi * 2 ^ 8 + lo))

/-- Read `count` fields of `width` bits, in stream order (R98, R99). -/
def readFields (width : Nat) : Nat → Op (List Nat)
  | 0 => Op.pure []
  | count + 1 => (readBits width).bind fun v => (readFields width count).bind fun vs => Op.pure (v :: vs)

/-! ### Window operations of the core -/

def push (b : Byte) : Op Unit := Op.modify fun s => s.setWin (s.win.push s.cfg.windowSize b)

/-- `copyFromSelf(offset, length)` (R241, R242). -/
def copyFromSelf (offset length : Nat) : Op Unit := fun s =>
  if offset < 1 then .raise .windowRangeZero
  else if offset > s.cfg.windowSize then .raise .windowRangeAbove
  else .ok () (s.setWin (s.win.copy s.cfg.windowSize offset length))

/-- `copyFromBitstream(n)` (R244). -/
def copyFromBitstream (n : Nat) : Op Unit :=
  (readBytes n).bind fun v => Op.modify fun s => s.setWin (s.win.pushAll s.cfg.windowSize v)

def pastView (n : Nat) : Op (List Byte) := Op.get fun s => s.win.view s.cfg.windowSize n

/-! ### Taking a fault, and the return from one -/

def OutOfBoundsCause.info : OutOfBoundsCause → BitVec 4
  | .wordFetch => 1
  | .peek => 2
  | .byteRead => 3
  | .bytesRead => 4

def TableDefect.info : TableDefect → BitVec 4
  | .incomplete => 1
  | .oversubscribed => 2
  | .empty => 3
  | .pretreeSymbol => 4
  | .newCode => 5
  | .runOverflow => 6
  | .absentLengthTree => 7

/-- `FAULT.code` of a fault (R300). -/
def FaultKind.code : FaultKind → BitVec 4
  | .outOfBounds _ => 1
  | .invalidBlockType _ => 2
  | .zeroSizeBlock => 3
  | .corruptTable _ => 4
  | .decodeOverrun => 5
  | .unsupportedE8 => 6
  | .invalidConfiguration => 7
  | .internalInvariant => 8
  | .windowRangeZero => 9
  | .windowRangeAbove => 9

/-- `FAULT.info` of a fault (R300). -/
def FaultKind.info : FaultKind → BitVec 4
  | .outOfBounds cause => cause.info
  | .invalidBlockType tag => tag
  | .zeroSizeBlock => 0
  | .corruptTable defect => defect.info
  | .decodeOverrun => 0
  | .unsupportedE8 => 0
  | .invalidConfiguration => 0
  | .internalInvariant => 1
  | .windowRangeZero => 1
  | .windowRangeAbove => 2

/-- The code of a refusal: `HostContract` (R300, R310). It is never written to `FAULT.code`. -/
def RefusalReason.code : RefusalReason → BitVec 4
  | .notConstructed => 10
  | .faulted => 10
  | .outputSizeRange => 10
  | .inputLengthRange => 10

/-- The `info` of a refusal (R300). -/
def RefusalReason.info : RefusalReason → BitVec 4
  | .notConstructed => 1
  | .faulted => 2
  | .outputSizeRange => 3
  | .inputLengthRange => 4

/-- The code and info of a command's outcome by the table of R300, code 0 where the command did not fail. -/
def HostResult.status : HostResult → BitVec 4 × BitVec 4
  | .none => (0, 0)
  | .completed => (0, 0)
  | .bytesWritten _ => (0, 0)
  | .bytes _ => (0, 0)
  | .fault code info => (code, info)
  | .refused reason => (reason.code, reason.info)

/-- A free value of draw `c` for register `reg`, in `0 .. bound-1` (log 5). -/
def free (c reg bound : Nat) : Nat := Config.freeNat c reg 0 % bound

/-- A free 32-bit value. -/
def freeWord (c reg : Nat) : Word32 := BitVec.ofNat 32 (Config.freeNat c reg 0)

def freeKind (c reg : Nat) : BlockKind :=
  match free c reg 4 with
  | 0 => .none
  | 1 => .verbatim
  | 2 => .aligned
  | _ => .uncompressed

/-- A free table of `n` symbols whose lengths are below `lenBound`, with an entry for every index of its `maxLength`. -/
def freeTable (c reg n lenBound : Nat) : Table :=
  { lens := (List.range n).map fun i => Config.freeNat c reg i % lenBound
    maxLength := free c (reg + 1) 17
    tab := (List.range (2 ^ free c (reg + 1) 17)).map fun i => Config.freeNat c (reg + 2) i % n
    present := decide (free c (reg + 3) 2 = 1) }

/-- A free window of `size` bytes: some writes to an empty one. -/
def freeWindow (c size : Nat) : Window :=
  ⟨(Config.freeCells c).foldl (fun m cell => memWrite m (cell.1 % size) cell.2) [], free c 20 size⟩

def freeSize (c reg : Nat) : Nat := free c reg (2 ^ 24)

/-- Every register the spec leaves unspecified holds a free value; the configuration, `CONSTRUCTED`, `FAULT.*`, the host's side and
the sequencer's place are kept (R313 (3), R50; log 5). -/
def State.freed (s : State) : State :=
  let c := s.freeCtr
  { s with
    br := ⟨Config.freeBytes c 0, free c 1 (2 ^ 32), free c 2 (2 ^ 32), BitVec.ofNat 16 (free c 3 (2 ^ 16)), free c 4 17⟩
    rep := ⟨freeWord c 5, freeWord c 6, freeWord c 7⟩
    blk := ⟨freeKind c 8, freeSize c 9, free c 10 (freeSize c 9 + 1), freeWord c 11, freeWord c 12, freeWord c 13⟩
    main := freeTable c 30 (nMain s.cfg.positionSlots) 17
    len := freeTable c 40 nLen 17
    align := freeTable c 50 nAlign 8
    pre := freeTable c 60 nPre 16
    win := freeWindow c s.cfg.windowSize
    chunkOffset := BitVec.ofNat 64 (free c 14 (2 ^ 64))
    decodedChunks := free c 15 (2 ^ 32)
    cmd := ⟨free c 16 (Config.outputMax + 1), free c 17 (2 ^ 25), decide (free c 18 2 = 1)⟩
    out := Config.freeBytes c 1
    upd := ⟨if free c 21 2 = 0 then .mainLen else .lenLen, free c 22 (nMain s.cfg.positionSlots), free c 23 (nMain s.cfg.positionSlots)⟩
    hdr := ⟨freeKind c 24, freeSize c 25⟩
    elt := ⟨free c 26 98, free c 27 258, free c 28 (2 ^ 17), freeWord c 29⟩
    ret := .none
    freeCtr := c + 1 }

/-- FAULT ENTRY (R313): `FAULT.*` written, everything but `CFG.*` and `CONSTRUCTED` unspecified, the command over with the result
`Fault(code, info)`. -/
def takeFault (k : FaultKind) (s : State) : State :=
  { s.freed with
    fault := ⟨true, k.code, k.info⟩
    phase := .idle
    result := .fault k.code k.info }

/-- RETURN FROM A FAULT (R314), `initState` of R261 and R262: every reset value of R49, the given configuration. The host's
waiting commands and the count of free values drawn are not the core's, and stay (log 5, log 8). -/
def initState (cfg : Cfg) (s : State) : State :=
  { State.initial cfg with host := s.host, freeCtr := s.freeCtr }

/-- A free configuration, one of the nine legal ones. -/
def freeCfg (c : Nat) : Cfg :=
  let entry := positionSlotsTable.getD (free c 19 9) (Config.resetWindow, 98)
  ⟨entry.1, entry.2⟩

/-- The core left unconstructed: `CONSTRUCTED` false and every other register unspecified (R50). `FAULT.*` is not written: a failed
`construct` does not make the core FAULTED (R307; log 6). -/
def State.unconstructed (s : State) : State :=
  { ({ s with cfg := freeCfg s.freeCtr } : State).freed with constructed := false, phase := .idle }

/-- The state at power-on: `CONSTRUCTED` false, nothing else defined, `FAULT.*` included (R340 (1), R50; log 4). -/
def State.powerOn : State :=
  { State.reset.unconstructed with
    fault := ⟨decide (free 0 70 2 = 1), BitVec.ofNat 4 (free 0 71 16), BitVec.ofNat 4 (free 0 72 16)⟩ }

/-- End an instruction whose operation returns nothing: a fault of the hardware is taken. -/
def Op.run (m : Op Unit) (s : State) : Outcome :=
  match m s with
  | .ok _ t => .next t
  | .raise k => .next (takeFault k s)
  | .stuck r => .fault r

/-- End an instruction whose operation returns a value: the value is in `ret`. -/
def Op.runRet {α : Type} (m : Op α) (f : α → Returned) (s : State) : Outcome :=
  (m.bind fun a => Op.modify fun t => t.setRet (f a)).run s

end Sys2Proof.Machine
end

