-- ==== Sys2Proof/Machine/Flags.lean ====
section
/-! DEFINITION. Flags.lean: the conditions that steer control (R47), each a function of registers, and the two counters' updates
(R42, R43). The hardware has no arithmetic condition codes. -/

namespace Sys2Proof.Machine

/-- (a) "first chunk": the E8 bit is read (R265). -/
def State.firstChunk (s : State) : Bool := s.decodedChunks == 0

/-- (b) "block exhausted": a header is read (R267). -/
def State.blockExhausted (s : State) : Bool := s.blk.remaining == 0

/-- (c) "realign byte owed": `BLK.kind = Uncompressed` and bit 0 of `BLK.size` is 1 (R267, R115 (g)). -/
def State.padOwed (s : State) : Bool := (s.blk.kind == .uncompressed) && (s.blk.size % 2 == 1)

/-- (d) `K.present` (R165). -/
def State.present (s : State) (k : TableKind) : Bool := (s.table k).present

/-- (e) no pending bits (R131, R137). -/
def Reader.noPending (r : Reader) : Bool := r.bitsLeft == 0

/-- (f) FAULTED (R44, R275). -/
def State.faulted (s : State) : Bool := s.fault.flag

/-- The loop test of step 3 (R266). -/
def State.wantsMore (s : State) : Bool := decide (s.cmd.produced < s.cmd.outputSize)

/-- The offset path of an Aligned block with `FOOTER_BITS[slot] ≥ 3` (R106, R215); every other is the verbatim path (R105, R216). -/
def State.alignedPath (s : State) (slot : Nat) : Bool := (s.blk.kind == .aligned) && decide (3 ≤ footerBits slot)

/-- `chunkOffset` after a chunk: wraps modulo 2^64 (R42, R271). -/
def advanceChunkOffset (offset : BitVec 64) (outputSize : Nat) : BitVec 64 := offset + BitVec.ofNat 64 outputSize

/-- `decodedChunks` after a chunk: saturates (R43, R271). -/
def countChunk (n : Nat) : Nat := min (n + 1) Config.chunkCountMax

end Sys2Proof.Machine
end

