-- ==== Sys2Proof/Machine/Operands.lean ====
section
/-! DEFINITION. Operands.lean: how each field's value is assembled (R110, R115). -/

namespace Sys2Proof.Machine

/-- The stored length at a position, 0 outside the array. -/
def lenAt (lens : List Nat) (i : Nat) : Nat := lens.getD i 0

/-- A delta-coded length: `(17 + old - code) mod 17` (R182, R115 (a)). -/
def deltaLength (old code : Nat) : Nat := (17 + old - code) % 17

/-- Write one value to `run` consecutive positions from `start` on: `fillRun lens start value run`. -/
def fillRun : List Nat → Nat → Nat → Nat → List Nat
  | [], _, _, _ => []
  | _ :: rest, 0, value, run + 1 => value :: fillRun rest 0 value run
  | x :: rest, 0, _, 0 => x :: rest
  | x :: rest, start + 1, value, run => x :: fillRun rest start value run

/-- `l_k`, bits `23-3k .. 21-3k` of the aligned lengths (R98). -/
def alignedLenField (l : BitVec 24) (k : Nat) : Nat := (l.extractLsb' (21 - 3 * k) 3).toNat

/-- `l_k`, bits `79-4k .. 76-4k` of the pretree lengths (R99). -/
def pretreeLenField (l : BitVec 80) (k : Nat) : Nat := (l.extractLsb' (76 - 4 * k) 4).toNat

/-- Fields read one after another, as one number: the first is the most significant (R10 (b)). -/
def packFields (width : Nat) (vs : List Nat) : Nat := vs.foldl (fun acc v => acc * 2 ^ width + v) 0

/-- Match length of a length header below 7 (R103). -/
def shortLength (lh : Nat) : Nat := lh + 2

/-- Match length of a length symbol (R103). -/
def longLength (t : Nat) : Nat := t + 7 + 2

/-- The class of a main symbol at or above 256 (R102). -/
def symbolSlot (sym : Nat) : Nat := (sym - 256) / 8
def symbolHeader (sym : Nat) : BitVec 3 := BitVec.ofNat 3 (sym - 256)

/-- Verbatim path: formatted offset `BASE_POSITION[slot] + v`, match offset that minus 2 (R105, R110), for the slots 3 and above that have
offset bits. DESIGN CHOICE (log 28): for a slot below 3, which the spec gives no such field, the difference is cut at 0. -/
def verbatimOffset (slot v : Nat) : Word32 := BitVec.ofNat 32 (basePosition slot + v - 2)

/-- Aligned path: formatted offset `BASE_POSITION[slot] + (v << 3) + a`, match offset that minus 2 (R106, R110), for the slots 8 and above of an
Aligned block. DESIGN CHOICE (log 28): any other slot, which the spec gives no aligned symbol, follows the formula, cut at 0. -/
def alignedOffset (slot v a : Nat) : Word32 := BitVec.ofNat 32 (basePosition slot + v * 8 + a - 2)

/-- How many raw offset bits a match has: `FOOTER_BITS[slot]`, or 3 fewer on the aligned path (R105, R106). -/
def State.rawOffsetBits (s : State) (slot : Nat) : Nat :=
  if s.alignedPath slot then footerBits slot - 3 else footerBits slot

/-- `outputSize` of `decompressChunk`, 32768 when not given (R272). -/
def outputSizeArg (outputSize : Option Nat) : Nat := outputSize.getD Config.outputMax

/-- The `[start, end)` of each range update of a block body and its array (R188). -/
def stageTarget : UpdateStage → LenArray
  | .literals => .mainLen
  | .matches => .mainLen
  | .lengths => .lenLen

def stageStart : UpdateStage → Nat
  | .literals => 0
  | .matches => 256
  | .lengths => 0

def stageStop (positionSlots : Nat) : UpdateStage → Nat
  | .literals => 256
  | .matches => nMain positionSlots
  | .lengths => nLen

end Sys2Proof.Machine
end

