-- ==== Sys2Proof/Machine/Huffman.lean ====
section
/-! DEFINITION. Huffman.lean: table construction and symbol decode (41_huffman.md). -/

namespace Sys2Proof.Machine

/-- `max(lengths)` (R160). -/
def maxLen (lens : List Nat) : Nat := lens.foldl max 0

/-- The symbols with code length `L`, in ascending order, from symbol number `first` on (R160). -/
def symbolsOfLength (L : Nat) : List Nat → Nat → List Nat
  | [], _ => []
  | x :: rest, first => if x = L then first :: symbolsOfLength L rest (first + 1) else symbolsOfLength L rest (first + 1)

/-- The used symbols in the order the fill takes them: by length, then by symbol (R160, R163), each with its length. -/
def fillOrder (lens : List Nat) (m : Nat) : List (Nat × Nat) :=
  (List.range m).flatMap fun j => (symbolsOfLength (j + 1) lens 0).map fun sym => (j + 1, sym)

/-- The fill: `2^(m-L)` entries for each symbol from `cursor` on, stopping at the first that does not fit; at the end the cursor must
be the table's end (R160, R162). -/
def fillTable (m : Nat) : List (Nat × Nat) → Nat → Except FaultKind (List Nat)
  | [], cursor => if cursor = 2 ^ m then .ok [] else .error (.corruptTable .incomplete)
  | (L, sym) :: rest, cursor =>
    if cursor + 2 ^ (m - L) > 2 ^ m then .error (.corruptTable .oversubscribed)
    else
      match fillTable m rest (cursor + 2 ^ (m - L)) with
      | .ok entries => .ok (List.replicate (2 ^ (m - L)) sym ++ entries)
      | .error k => .error k

/-- `buildTable` on a table of kind `k` (R160, R161). An absent length table keeps no entry. -/
def Table.build (t : Table) (k : TableKind) : Except FaultKind Table :=
  if maxLen t.lens = 0 then
    if k = .len then .ok { t with maxLength := 0, tab := [], present := false }
    else .error (.corruptTable .empty)
  else
    match fillTable (maxLen t.lens) (fillOrder t.lens (maxLen t.lens)) 0 with
    | .ok entries => .ok { t with maxLength := maxLen t.lens, tab := entries, present := true }
    | .error e => .error e

/-- `buildTable(K)` (R160). -/
def buildTable (k : TableKind) : Op Unit := fun s =>
  match (s.table k).build k with
  | .ok t => .ok () (s.setTable k t)
  | .error e => .raise e

/-- The symbol an index of `KTAB` holds (R164). -/
def lookupSymbol (k : TableKind) (idx : Nat) : Op Nat := fun s =>
  match (s.table k).tab[idx]? with
  | some sym => .ok sym s
  | none => .stuck .brokenTable

/-- `decodeSymbol(K)` (R164, R165): look at `K.maxLength` bits, consume `KLEN[symbol]`. -/
def decodeSymbol (k : TableKind) : Op Nat := fun s =>
  if s.present k then
    ((peekBits (s.table k).maxLength).bind fun idx =>
      (lookupSymbol k idx).bind fun sym =>
        (readBits (lenAt (s.table k).lens sym)).bind fun _ => Op.pure sym) s
  else .raise (.corruptTable .absentLengthTree)

/-- R160. -/
def execBuildTable (k : TableKind) (s : State) : Outcome := (buildTable k).run s

/-- R164. -/
def execDecodeSymbol (k : TableKind) (s : State) : Outcome := (decodeSymbol k).runRet .num s

end Sys2Proof.Machine
end

