-- ==== Sys2Proof/Machine/Pretree.lean ====
section
/-! DEFINITION. Pretree.lean: the pretree symbols, the length fields of a block body, and the table updates (42_pretree.md). A pretree
symbol works on the update in progress, the registers `upd` (R181's `T`, `i`, `end`). -/

namespace Sys2Proof.Machine

/-- The array being updated (R181). -/
def State.updLens (s : State) : List Nat := (s.table (lensKind s.upd.target)).lens

/-- Replace the array being updated. -/
def State.setUpdLens (s : State) (lens : List Nat) : State :=
  s.setTable (lensKind s.upd.target) { s.table (lensKind s.upd.target) with lens := lens }

/-- `T[i .. i+run-1] <- value; i <- i + run` (R181). -/
def State.writeRun (s : State) (value run : Nat) : State :=
  (s.setUpdLens (fillRun s.updLens s.upd.pos value run)).setUpd { s.upd with pos := s.upd.pos + run }

/-- A pretree symbol is decoded only while `i < end` (R181). -/
def whileUpdating (m : Op Unit) : Op Unit := fun s => if s.upd.pos < s.upd.stop then m s else .stuck .noUpdate

/-- Write a run, unless it passes `end` (R187: nothing of it is written then). -/
def writeRunChecked (value run : Nat) : Op Unit := fun s =>
  if s.upd.pos + run > s.upd.stop then .raise (.corruptTable .runOverflow) else .ok () (s.writeRun value run)

/-- The delta-coded value for the current position (R182, R185). -/
def State.deltaHere (s : State) (code : Nat) : Nat := deltaLength (lenAt s.updLens s.upd.pos) code

/-- Pretree symbols 0 to 16 (R182). -/
def ptDelta (code : Nat) : Op Unit := whileUpdating (Op.modify fun s => s.writeRun (s.deltaHere code) 1)

/-- Pretree symbols 17 and 18 (R183, R184): `z` of `bits` bits, a run of `z + base` zeros. -/
def ptZeroRun (bits base : Nat) : Op Unit := whileUpdating ((readBits bits).bind fun z => writeRunChecked 0 (z + base))

/-- `newCode` of pretree symbol 19: 0 to 16, tested before the run overflow (R185). -/
def readNewCode : Op Nat := (decodeSymbol .pre).bind fun code => if code > 16 then Op.raise (.corruptTable .newCode) else Op.pure code

/-- Pretree symbol 19 (R185): one value, from the old length at the run's first position. -/
def ptSameRun : Op Unit :=
  whileUpdating ((readBits 1).bind fun same => readNewCode.bind fun code => fun s => writeRunChecked (s.deltaHere code) (same + 4) s)

/-- The case split of R181 on a decoded pretree symbol. -/
def pretreeSymbol (sym : Nat) : Op Unit :=
  if sym ≤ 16 then ptDelta sym
  else if sym = 17 then ptZeroRun 4 4
  else if sym = 18 then ptZeroRun 5 20
  else if sym = 19 then ptSameRun
  else Op.raise (.corruptTable .pretreeSymbol)

/-- `PRELEN[k] <- l_k` and the pretree built (R180). -/
def setPretree (l : BitVec 80) : Op Unit :=
  (Op.modify fun s => s.setTable .pre { s.pre with lens := (List.range nPre).map (pretreeLenField l) }).andThen (buildTable .pre)

/-- `ALIGNLEN[k] <- l_k` and the aligned table built (R189). -/
def setAlignedTree (l : BitVec 24) : Op Unit :=
  (Op.modify fun s => s.setTable .align { s.align with lens := (List.range nAlign).map (alignedLenField l) }).andThen (buildTable .align)

/-- The twenty 4-bit fields (R99). -/
def readPretreeField : Op (BitVec 80) := (readFields 4 nPre).bind fun vs => Op.pure (BitVec.ofNat 80 (packFields 4 vs))

/-- The eight 3-bit fields (R98). -/
def readAlignedField : Op (BitVec 24) := (readFields 3 nAlign).bind fun vs => Op.pure (BitVec.ofNat 24 (packFields 3 vs))

/-- `readPretree()` (R180). -/
def readPretree : Op Unit := readPretreeField.bind setPretree

/-- `readAlignedTree()` (R189). DESIGN CHOICE (log 27): outside an Aligned block, where it has no meaning (R34, U32), the tree stays. -/
def readAlignedTree : Op Unit := readAlignedField.bind setAlignedTree

/-- `i <- start` with `T` and `end` (R181). -/
def beginUpdate (t : LenArray) (start stop : Nat) : Op Unit := Op.modify fun s => s.setUpd ⟨t, start, stop⟩

/-- The loop of R181. Every pass advances `i`, so `end - start` passes are enough. -/
def updateLoop : Nat → Op Unit
  | 0 => Op.pure ()
  | n + 1 => fun s =>
    if s.upd.pos < s.upd.stop then (((decodeSymbol .pre).bind pretreeSymbol).andThen (updateLoop n)) s else .ok () s

/-- `updateRange(T, start, end)` (R181). DESIGN CHOICE (log 27): the pretree dies with the update (R35) and may then hold any value (U32);
`PRELEN` and its table keep it until the next `readPretree`. -/
def updateRange (t : LenArray) (start stop : Nat) : Op Unit :=
  readPretree.andThen ((beginUpdate t start stop).andThen (updateLoop (stop - start)))

/-- One of the three range updates of a block body (R188). -/
def updateStage (stage : UpdateStage) : Op Unit := fun s =>
  updateRange (stageTarget stage) (stageStart stage) (stageStop s.cfg.positionSlots stage) s

/-- `readTables()` (R188; the three ranges and their order are PRESUMED by the spec, log 13). -/
def readTables : Op Unit :=
  (updateStage .literals).andThen <| (updateStage .matches).andThen <| (buildTable .main).andThen <|
    (updateStage .lengths).andThen (buildTable .len)

/-- R182. -/
def execPtDelta0 (s : State) : Outcome := (ptDelta 0).run s
/-- R182. -/
def execPtDelta1 (s : State) : Outcome := (ptDelta 1).run s
/-- R182. -/
def execPtDelta2 (s : State) : Outcome := (ptDelta 2).run s
/-- R182. -/
def execPtDelta3 (s : State) : Outcome := (ptDelta 3).run s
/-- R182. -/
def execPtDelta4 (s : State) : Outcome := (ptDelta 4).run s
/-- R182. -/
def execPtDelta5 (s : State) : Outcome := (ptDelta 5).run s
/-- R182. -/
def execPtDelta6 (s : State) : Outcome := (ptDelta 6).run s
/-- R182. -/
def execPtDelta7 (s : State) : Outcome := (ptDelta 7).run s
/-- R182. -/
def execPtDelta8 (s : State) : Outcome := (ptDelta 8).run s
/-- R182. -/
def execPtDelta9 (s : State) : Outcome := (ptDelta 9).run s
/-- R182. -/
def execPtDelta10 (s : State) : Outcome := (ptDelta 10).run s
/-- R182. -/
def execPtDelta11 (s : State) : Outcome := (ptDelta 11).run s
/-- R182. -/
def execPtDelta12 (s : State) : Outcome := (ptDelta 12).run s
/-- R182. -/
def execPtDelta13 (s : State) : Outcome := (ptDelta 13).run s
/-- R182. -/
def execPtDelta14 (s : State) : Outcome := (ptDelta 14).run s
/-- R182. -/
def execPtDelta15 (s : State) : Outcome := (ptDelta 15).run s
/-- R182. -/
def execPtDelta16 (s : State) : Outcome := (ptDelta 16).run s

/-- R183. -/
def execPtZeroRunShort (s : State) : Outcome := (ptZeroRun 4 4).run s

/-- R184. -/
def execPtZeroRunLong (s : State) : Outcome := (ptZeroRun 5 20).run s

/-- R185. -/
def execPtSameRun (s : State) : Outcome := ptSameRun.run s

/-- R180, the fields already read (R99). -/
def execPretreeLengths (l : BitVec 80) (s : State) : Outcome := (setPretree l).run s

/-- R189, the fields already read (R98). -/
def execAlignedLengths (l : BitVec 24) (s : State) : Outcome := (setAlignedTree l).run s

/-- R180. -/
def execReadPretree (s : State) : Outcome := readPretree.run s

/-- R181; `0 ≤ start ≤ end ≤` the size of the array is the operation's domain (a vector of the spec, V4.9, has `start = end`). -/
def execUpdateRange (t : LenArray) (start stop : Nat) (s : State) : Outcome :=
  if start ≤ stop ∧ stop ≤ (s.table (lensKind t)).lens.length then (updateRange t start stop).run s else .refused .outsideDomain

/-- R188. -/
def execReadTables (s : State) : Outcome := readTables.run s

/-- R189. -/
def execReadAlignedTree (s : State) : Outcome := readAlignedTree.run s

end Sys2Proof.Machine
end

