-- ==== Sys2Proof/Machine/BlockHeader.lean ====
section
/-! DEFINITION. BlockHeader.lean: block headers and bodies (43_block.md, R200 to R206). A header row judges the tag and hands the
block's kind and size to the body (`hdr`, R201's locals); the body's rows follow; `commitBlock` ends it. -/

namespace Sys2Proof.Machine

/-- `kind` by tag (R94, R201). -/
def tagKind (tag : Nat) : Option BlockKind :=
  match tag with
  | 1 => some .verbatim
  | 2 => some .aligned
  | 3 => some .uncompressed
  | _ => none

/-- The tag dispatch of R201 on a header already read. -/
def blockHeader (tag : Nat) (size : BitVec 24) : Op Unit :=
  match tagKind tag with
  | some kind => Op.modify fun s => s.setHdr ⟨kind, size.toNat⟩
  | none => Op.raise (.invalidBlockType (BitVec.ofNat 4 tag))

/-- `BLK.r0..r2` from the three values of the body, unvalidated (R203). -/
def setBlockOffsets (r0 r1 r2 : Word32) : Op Unit := Op.modify fun s => s.setBlk { s.blk with r0 := r0, r1 := r1, r2 := r2 }

/-- The three `readU32le` of the body (R203). -/
def readOffsetValues : Op (Word32 × Word32 × Word32) :=
  readU32le.bind fun r0 => readU32le.bind fun r1 => readU32le.bind fun r2 => Op.pure (r0, r1, r2)

/-- `readUncompressedBody()` (R203). -/
def readUncompressedBody : Op Unit := align.andThen (readOffsetValues.bind fun v => setBlockOffsets v.1 v.2.1 v.2.2)

/-- The end of `readBlock` (R201): the size judged after the body (R206), then `BLK.*` written. DESIGN CHOICE (log 27): under a block that is
not Uncompressed `BLK.r0..r2`, which may then hold any value (R30, U32), keep the latest triple. -/
def commitBlock : Op Unit := fun s =>
  if s.hdr.size = 0 then .raise .zeroSizeBlock
  else .ok () (s.setBlk { s.blk with kind := s.hdr.kind, size := s.hdr.size, remaining := s.hdr.size })

/-- The body by kind (R201, R203 to R205). -/
def readBody : Op Unit := fun s =>
  match s.hdr.kind with
  | .uncompressed => readUncompressedBody s
  | .aligned => (readAlignedTree.andThen readTables) s
  | .verbatim => readTables s
  | .none => .ok () s

/-- The 27 header bits (R93, R201): the tag, then the size; the tag is judged only after both are read. -/
def readHeader : Op (Nat × BitVec 24) := (readBits 3).bind fun tag => readU24be.bind fun size => Op.pure (tag, size)

/-- `readBlock()` (R201). -/
def readBlock : Op Unit := (readHeader.bind fun h => blockHeader h.1 h.2).andThen (readBody.andThen commitBlock)

/-- R202. -/
def execBlockInvalid0 (size : BitVec 24) (s : State) : Outcome := (blockHeader 0 size).run s

/-- R201, the header; the body follows in the stream. -/
def execBlockVerbatim (size : BitVec 24) (s : State) : Outcome := (blockHeader 1 size).run s

/-- R201, the header; the body follows in the stream. -/
def execBlockAligned (size : BitVec 24) (s : State) : Outcome := (blockHeader 2 size).run s

/-- R201, the header; the body follows in the stream. -/
def execBlockUncompressed (size : BitVec 24) (s : State) : Outcome := (blockHeader 3 size).run s

/-- R202. -/
def execBlockInvalid4 (size : BitVec 24) (s : State) : Outcome := (blockHeader 4 size).run s

/-- R202. -/
def execBlockInvalid5 (size : BitVec 24) (s : State) : Outcome := (blockHeader 5 size).run s

/-- R202. -/
def execBlockInvalid6 (size : BitVec 24) (s : State) : Outcome := (blockHeader 6 size).run s

/-- R202. -/
def execBlockInvalid7 (size : BitVec 24) (s : State) : Outcome := (blockHeader 7 size).run s

/-- R203, the three values already read. -/
def execUncompressedRValues (r0 r1 r2 : Word32) (s : State) : Outcome := (setBlockOffsets r0 r1 r2).run s

/-- R137, R203: the padding is dropped. -/
def execAlignPadding (s : State) : Outcome := align.run s

/-- R201. -/
def execReadBlock (s : State) : Outcome := readBlock.run s

/-- R203. -/
def execReadUncompressedBody (s : State) : Outcome := readUncompressedBody.run s

end Sys2Proof.Machine
end

