-- ==== Sys2Proof/Machine/Element.lean ====
section
/-! DEFINITION. Element.lean: decoding one element (43_block.md, R207 to R219), and applying it to the window with the accounting of
the loop (45_decoder.md, R268, R269). The locals of a match are the registers `elt`. -/

namespace Sys2Proof.Machine

/-! ### Match length (R103, R210) -/

def setMatchLength (n : Nat) : Op Unit := Op.modify fun s => s.setElt { s.elt with length := n }

/-- A length symbol (R103). -/
def lengthSymbol (t : Nat) : Op Unit := setMatchLength (longLength t)

/-- A length header (R210): below 7 the length itself, 7 a length-tree code. -/
def lengthHeader (lh : Nat) : Op Unit :=
  if lh = 7 then (decodeSymbol .len).bind lengthSymbol else setMatchLength (shortLength lh)

/-- `matchLength(lh)` (R210). -/
def matchLength (lh : Nat) : Op Nat := (lengthHeader lh).andThen (Op.get fun s => s.elt.length)

/-! ### Match offset (R211 to R217) -/

/-- `pushOffset(offset)` (R217). -/
def OffsetCache.push (c : OffsetCache) (offset : Word32) : OffsetCache := ⟨offset, c.r0, c.r1⟩

def pushOffset (offset : Word32) : Op Unit := Op.modify fun s => s.setRep (s.rep.push offset)

def setMatchOffset (offset : Word32) : Op Unit := Op.modify fun s => s.setElt { s.elt with offset := offset }

def setMatchSlot (slot : Nat) : Op Unit := Op.modify fun s => s.setElt { s.elt with slot := slot }

/-- Slot 0: `REP0`, the cache unchanged (R211). -/
def matchOffset0 : Op Unit := fun s => setMatchOffset s.rep.r0 s

/-- Slot 1: `REP1`, swapped with `REP0` (R212). -/
def matchOffset1 : Op Unit := fun s =>
  ((Op.modify fun t => t.setRep ⟨s.rep.r1, s.rep.r0, s.rep.r2⟩).andThen (setMatchOffset s.rep.r1)) s

/-- Slot 2: `REP2`, swapped with `REP0` (R213). -/
def matchOffset2 : Op Unit := fun s =>
  ((Op.modify fun t => t.setRep ⟨s.rep.r2, s.rep.r1, s.rep.r0⟩).andThen (setMatchOffset s.rep.r2)) s

/-- The offset of a slot 3 or above: used, and pushed (R214, R215). -/
def newOffset (offset : Word32) : Op Unit := (setMatchOffset offset).andThen (pushOffset offset)

/-- The raw offset bits of the match's slot (R105, R106): `FOOTER_BITS[slot]` of them, or 3 fewer on the aligned path. -/
def readRawOffsetBits : Op Unit := fun s =>
  ((readBits (s.rawOffsetBits s.elt.slot)).bind fun v => Op.modify fun t => t.setElt { t.elt with v := v }) s

/-- Verbatim path, the raw bits read (R214). -/
def verbatimOffsetDone : Op Unit := fun s => newOffset (verbatimOffset s.elt.slot s.elt.v) s

/-- The footer field (R105, R106, R214, R215): on the verbatim path it completes the offset, on the aligned path it leaves `v` for the
aligned symbol. -/
def footerField : Op Unit :=
  readRawOffsetBits.andThen fun s => if s.alignedPath s.elt.slot then .ok () s else verbatimOffsetDone s

/-- An aligned symbol: the low three bits of the formatted offset (R106, R215). -/
def alignedSymbol (a : Nat) : Op Unit := fun s => newOffset (alignedOffset s.elt.slot s.elt.v a) s

/-- `matchOffset(slot)`, `slot ≥ 3` (R214 to R216). -/
def matchOffsetCoded (slot : Nat) : Op Unit :=
  (setMatchSlot slot).andThen <| footerField.andThen fun s =>
    if s.alignedPath slot then ((decodeSymbol .align).bind alignedSymbol) s else .ok () s

/-- `matchOffset(slot)` (R211 to R216). -/
def matchOffset (slot : Nat) : Op Unit :=
  match slot with
  | 0 => matchOffset0
  | 1 => matchOffset1
  | 2 => matchOffset2
  | _ => matchOffsetCoded slot

/-! ### Elements (R207 to R209) -/

/-- A match symbol's element (R209): the length before the offset (R219). A slot at or above `S` has no symbol in this core (R104). -/
def matchElement (slot lh : Nat) : Op Element := fun s =>
  if slot < s.cfg.positionSlots ∧ slot < 98 then
    ((matchLength lh).bind fun length =>
      (matchOffset slot).andThen (Op.get fun t => Element.matched t.elt.offset length)) s
  else .stuck .noSuchSymbol

/-- `decodeCoded()` (R209). -/
def decodeCoded : Op Element :=
  (decodeSymbol .main).bind fun sym =>
    if sym ≤ 255 then Op.pure (.literal (BitVec.ofNat 8 sym))
    else matchElement (symbolSlot sym) (symbolHeader sym).toNat

/-- `decodeUncompressed()` (R208): the cache overwritten, then the bulk read, capped by the block and by the input left. -/
def decodeUncompressed : Op Element :=
  (Op.modify fun s => s.setRep ⟨s.blk.r0, s.blk.r1, s.blk.r2⟩).andThen fun s =>
    if min s.blk.remaining s.br.remaining = 0 then .raise .internalInvariant
    else .ok (.bulkRead (min s.blk.remaining s.br.remaining)) s

/-- `decodeElement()` (R207). -/
def decodeElement : Op Element := fun s =>
  if s.blk.kind = .uncompressed then decodeUncompressed s else decodeCoded s

/-! ### Applying an element (R268, R269) -/

/-- The output length of an element (R207). -/
def Element.length : Element → Nat
  | .literal _ => 1
  | .matched _ length => length
  | .bulkRead n => n

/-- Step 3c (R268). -/
def applyElement : Element → Op Unit
  | .literal b => push b
  | .matched offset length => copyFromSelf offset.toNat length
  | .bulkRead n => copyFromBitstream n

/-- Step 3d (R269): the test first, then the decrement. -/
def account (n : Nat) : Op Unit := fun s =>
  if n > s.blk.remaining then .raise .decodeOverrun
  else .ok () ((s.setBlk { s.blk with remaining := s.blk.remaining - n }).setCmd { s.cmd with produced := s.cmd.produced + n })

/-- Steps 3c and 3d. -/
def takeElement (e : Element) : Op Unit := (applyElement e).andThen (account e.length)

/-- A match symbol, decoded, applied and accounted for. -/
def matchSlot (slot : Nat) (lh : BitVec 3) : Op Unit := (matchElement slot lh.toNat).bind takeElement

/-! ### Meanings -/

/-- R209: `Literal(byte)`, pushed and accounted for; the cache unchanged. -/
def execLiteral (byte : Byte) (s : State) : Outcome := (takeElement (.literal byte)).run s

/-- R210. -/
def execLenHdr0 (s : State) : Outcome := (lengthHeader 0).run s

/-- R210. -/
def execLenHdr1 (s : State) : Outcome := (lengthHeader 1).run s

/-- R210. -/
def execLenHdr2 (s : State) : Outcome := (lengthHeader 2).run s

/-- R210. -/
def execLenHdr3 (s : State) : Outcome := (lengthHeader 3).run s

/-- R210. -/
def execLenHdr4 (s : State) : Outcome := (lengthHeader 4).run s

/-- R210. -/
def execLenHdr5 (s : State) : Outcome := (lengthHeader 5).run s

/-- R210. -/
def execLenHdr6 (s : State) : Outcome := (lengthHeader 6).run s

/-- R210. -/
def execLenHdr7 (s : State) : Outcome := (lengthHeader 7).run s

/-- R210: a length symbol is 0 to 248. -/
def execLengthSymbol (t : BitVec 8) (s : State) : Outcome :=
  if t.toNat < nLen then (lengthSymbol t.toNat).run s else .fault .noSuchSymbol

/-- R215, for the match whose slot and raw bits `elt` holds (a slot without an aligned symbol: log 28). -/
def execAlignedSymbol (a : BitVec 3) (s : State) : Outcome := (alignedSymbol a.toNat).run s

/-- R214, R215: the raw offset bits of the match whose slot `elt` holds (a slot below 3, which has none: log 28). -/
def execFooterBitsField (s : State) : Outcome := footerField.run s

/-- R208, R244: the element of an Uncompressed block, copied and accounted for. -/
def execRawBytes (s : State) : Outcome := (decodeUncompressed.bind takeElement).run s

/-- R207, with its precondition `BLK.remaining > 0`. -/
def execDecodeElement (s : State) : Outcome :=
  if 0 < s.blk.remaining then decodeElement.runRet .element s else .fault .noBlock

/-- R208. -/
def execDecodeUncompressed (s : State) : Outcome := decodeUncompressed.runRet .element s

/-- R209. -/
def execDecodeCoded (s : State) : Outcome := decodeCoded.runRet .element s

/-- R210. -/
def execMatchLength (lh : BitVec 3) (s : State) : Outcome := (matchLength lh.toNat).runRet .num s

/-- An offset operation returns the offset. -/
def returnOffset (m : Op Unit) : Op Word32 := m.andThen (Op.get fun s => s.elt.offset)

/-- R211. -/
def execMatchOffsetSlot0 (s : State) : Outcome := (returnOffset matchOffset0).runRet (fun v => .num v.toNat) s

/-- R212. -/
def execMatchOffsetSlot1 (s : State) : Outcome := (returnOffset matchOffset1).runRet (fun v => .num v.toNat) s

/-- R213. -/
def execMatchOffsetSlot2 (s : State) : Outcome := (returnOffset matchOffset2).runRet (fun v => .num v.toNat) s

/-- The verbatim path for a slot (R214). -/
def matchOffsetVerbatim (slot : Nat) : Op Unit :=
  (setMatchSlot slot).andThen <| (readBits (footerBits slot)).bind fun v =>
    (Op.modify fun s => s.setElt { s.elt with v := v }).andThen verbatimOffsetDone

/-- The aligned path for a slot (R215). -/
def matchOffsetAligned (slot : Nat) : Op Unit :=
  (setMatchSlot slot).andThen <| (readBits (footerBits slot - 3)).bind fun v =>
    (Op.modify fun s => s.setElt { s.elt with v := v }).andThen ((decodeSymbol .align).bind alignedSymbol)

/-- R214: slots 3 to 97. -/
def execMatchOffsetVerbatim (slot : Nat) (s : State) : Outcome :=
  if 3 ≤ slot ∧ slot < 98 then (returnOffset (matchOffsetVerbatim slot)).runRet (fun v => .num v.toNat) s
  else .refused .outsideDomain

/-- R215: slots with `FOOTER_BITS[slot] ≥ 3`, 8 to 97. -/
def execMatchOffsetAligned (slot : Nat) (s : State) : Outcome :=
  if 8 ≤ slot ∧ slot < 98 then (returnOffset (matchOffsetAligned slot)).runRet (fun v => .num v.toNat) s
  else .refused .outsideDomain

/-- R216: slots 3 to 7, exactly R214. -/
def execMatchOffsetAlignedShort (slot : Nat) (s : State) : Outcome :=
  if 3 ≤ slot ∧ slot ≤ 7 then (returnOffset (matchOffsetVerbatim slot)).runRet (fun v => .num v.toNat) s
  else .refused .outsideDomain

/-- R217. -/
def execPushOffset (offset : Word32) (s : State) : Outcome := (pushOffset offset).run s

end Sys2Proof.Machine
end

