-- ==== Sys2Proof/Machine/MatchSlots.lean ====
section
/-! DEFINITION. MatchSlots.lean: the meaning of each MATCH_SLOT row: the match element of its position slot (R209 to R217),
applied to the window and accounted for (R241, R269). -/

namespace Sys2Proof.Machine

/-- R211: offset `REP0`, cache unchanged. -/
def execMatchSlot0 (lh : BitVec 3) (s : State) : Outcome := (matchSlot 0 lh).run s
/-- R212: offset `REP1`, `REP0` and `REP1` swapped. -/
def execMatchSlot1 (lh : BitVec 3) (s : State) : Outcome := (matchSlot 1 lh).run s
/-- R213: offset `REP2`, `REP0` and `REP2` swapped. -/
def execMatchSlot2 (lh : BitVec 3) (s : State) : Outcome := (matchSlot 2 lh).run s
/-- R214, and R216 in an Aligned block. -/
def execMatchSlot3 (lh : BitVec 3) (s : State) : Outcome := (matchSlot 3 lh).run s
/-- R214, and R216 in an Aligned block. -/
def execMatchSlot4 (lh : BitVec 3) (s : State) : Outcome := (matchSlot 4 lh).run s
/-- R214, and R216 in an Aligned block. -/
def execMatchSlot5 (lh : BitVec 3) (s : State) : Outcome := (matchSlot 5 lh).run s
/-- R214, and R216 in an Aligned block. -/
def execMatchSlot6 (lh : BitVec 3) (s : State) : Outcome := (matchSlot 6 lh).run s
/-- R214, and R216 in an Aligned block. -/
def execMatchSlot7 (lh : BitVec 3) (s : State) : Outcome := (matchSlot 7 lh).run s
/-- R214, and R215 in an Aligned block. -/
def execMatchSlot8 (lh : BitVec 3) (s : State) : Outcome := (matchSlot 8 lh).run s
/-- R214, and R215 in an Aligned block. -/
def execMatchSlot9 (lh : BitVec 3) (s : State) : Outcome := (matchSlot 9 lh).run s
/-- R214, and R215 in an Aligned block. -/
def execMatchSlot10 (lh : BitVec 3) (s : State) : Outcome := (matchSlot 10 lh).run s
/-- R214, and R215 in an Aligned block. -/
def execMatchSlot11 (lh : BitVec 3) (s : State) : Outcome := (matchSlot 11 lh).run s
/-- R214, and R215 in an Aligned block. -/
def execMatchSlot12 (lh : BitVec 3) (s : State) : Outcome := (matchSlot 12 lh).run s
/-- R214, and R215 in an Aligned block. -/
def execMatchSlot13 (lh : BitVec 3) (s : State) : Outcome := (matchSlot 13 lh).run s
/-- R214, and R215 in an Aligned block. -/
def execMatchSlot14 (lh : BitVec 3) (s : State) : Outcome := (matchSlot 14 lh).run s
/-- R214, and R215 in an Aligned block. -/
def execMatchSlot15 (lh : BitVec 3) (s : State) : Outcome := (matchSlot 15 lh).run s
/-- R214, and R215 in an Aligned block. -/
def execMatchSlot16 (lh : BitVec 3) (s : State) : Outcome := (matchSlot 16 lh).run s
/-- R214, and R215 in an Aligned block. -/
def execMatchSlot17 (lh : BitVec 3) (s : State) : Outcome := (matchSlot 17 lh).run s
/-- R214, and R215 in an Aligned block. -/
def execMatchSlot18 (lh : BitVec 3) (s : State) : Outcome := (matchSlot 18 lh).run s
/-- R214, and R215 in an Aligned block. -/
def execMatchSlot19 (lh : BitVec 3) (s : State) : Outcome := (matchSlot 19 lh).run s
/-- R214, and R215 in an Aligned block. -/
def execMatchSlot20 (lh : BitVec 3) (s : State) : Outcome := (matchSlot 20 lh).run s
/-- R214, and R215 in an Aligned block. -/
def execMatchSlot21 (lh : BitVec 3) (s : State) : Outcome := (matchSlot 21 lh).run s
/-- R214, and R215 in an Aligned block. -/
def execMatchSlot22 (lh : BitVec 3) (s : State) : Outcome := (matchSlot 22 lh).run s
/-- R214, and R215 in an Aligned block. -/
def execMatchSlot23 (lh : BitVec 3) (s : State) : Outcome := (matchSlot 23 lh).run s
/-- R214, and R215 in an Aligned block. -/
def execMatchSlot24 (lh : BitVec 3) (s : State) : Outcome := (matchSlot 24 lh).run s
/-- R214, and R215 in an Aligned block. -/
def execMatchSlot25 (lh : BitVec 3) (s : State) : Outcome := (matchSlot 25 lh).run s
/-- R214, and R215 in an Aligned block. -/
def execMatchSlot26 (lh : BitVec 3) (s : State) : Outcome := (matchSlot 26 lh).run s
/-- R214, and R215 in an Aligned block. -/
def execMatchSlot27 (lh : BitVec 3) (s : State) : Outcome := (matchSlot 27 lh).run s
/-- R214, and R215 in an Aligned block. -/
def execMatchSlot28 (lh : BitVec 3) (s : State) : Outcome := (matchSlot 28 lh).run s
/-- R214, and R215 in an Aligned block. -/
def execMatchSlot29 (lh : BitVec 3) (s : State) : Outcome := (matchSlot 29 lh).run s
/-- R214, and R215 in an Aligned block. -/
def execMatchSlot30 (lh : BitVec 3) (s : State) : Outcome := (matchSlot 30 lh).run s
/-- R214, and R215 in an Aligned block. -/
def execMatchSlot31 (lh : BitVec 3) (s : State) : Outcome := (matchSlot 31 lh).run s
/-- R214, and R215 in an Aligned block. -/
def execMatchSlot32 (lh : BitVec 3) (s : State) : Outcome := (matchSlot 32 lh).run s
/-- R214, and R215 in an Aligned block. -/
def execMatchSlot33 (lh : BitVec 3) (s : State) : Outcome := (matchSlot 33 lh).run s
/-- R214, and R215 in an Aligned block. -/
def execMatchSlot34 (lh : BitVec 3) (s : State) : Outcome := (matchSlot 34 lh).run s
/-- R214, and R215 in an Aligned block. -/
def execMatchSlot35 (lh : BitVec 3) (s : State) : Outcome := (matchSlot 35 lh).run s
/-- R214, and R215 in an Aligned block. -/
def execMatchSlot36 (lh : BitVec 3) (s : State) : Outcome := (matchSlot 36 lh).run s
/-- R214, and R215 in an Aligned block. -/
def execMatchSlot37 (lh : BitVec 3) (s : State) : Outcome := (matchSlot 37 lh).run s
/-- R214, and R215 in an Aligned block. -/
def execMatchSlot38 (lh : BitVec 3) (s : State) : Outcome := (matchSlot 38 lh).run s
/-- R214, and R215 in an Aligned block. -/
def execMatchSlot39 (lh : BitVec 3) (s : State) : Outcome := (matchSlot 39 lh).run s
/-- R214, and R215 in an Aligned block. -/
def execMatchSlot40 (lh : BitVec 3) (s : State) : Outcome := (matchSlot 40 lh).run s
/-- R214, and R215 in an Aligned block. -/
def execMatchSlot41 (lh : BitVec 3) (s : State) : Outcome := (matchSlot 41 lh).run s
/-- R214, and R215 in an Aligned block. -/
def execMatchSlot42 (lh : BitVec 3) (s : State) : Outcome := (matchSlot 42 lh).run s
/-- R214, and R215 in an Aligned block. -/
def execMatchSlot43 (lh : BitVec 3) (s : State) : Outcome := (matchSlot 43 lh).run s
/-- R214, and R215 in an Aligned block. -/
def execMatchSlot44 (lh : BitVec 3) (s : State) : Outcome := (matchSlot 44 lh).run s
/-- R214, and R215 in an Aligned block. -/
def execMatchSlot45 (lh : BitVec 3) (s : State) : Outcome := (matchSlot 45 lh).run s
/-- R214, and R215 in an Aligned block. -/
def execMatchSlot46 (lh : BitVec 3) (s : State) : Outcome := (matchSlot 46 lh).run s
/-- R214, and R215 in an Aligned block. -/
def execMatchSlot47 (lh : BitVec 3) (s : State) : Outcome := (matchSlot 47 lh).run s
/-- R214, and R215 in an Aligned block. -/
def execMatchSlot48 (lh : BitVec 3) (s : State) : Outcome := (matchSlot 48 lh).run s
/-- R214, and R215 in an Aligned block. -/
def execMatchSlot49 (lh : BitVec 3) (s : State) : Outcome := (matchSlot 49 lh).run s
/-- R214, and R215 in an Aligned block. -/
def execMatchSlot50 (lh : BitVec 3) (s : State) : Outcome := (matchSlot 50 lh).run s
/-- R214, and R215 in an Aligned block. -/
def execMatchSlot51 (lh : BitVec 3) (s : State) : Outcome := (matchSlot 51 lh).run s
/-- R214, and R215 in an Aligned block. -/
def execMatchSlot52 (lh : BitVec 3) (s : State) : Outcome := (matchSlot 52 lh).run s
/-- R214, and R215 in an Aligned block. -/
def execMatchSlot53 (lh : BitVec 3) (s : State) : Outcome := (matchSlot 53 lh).run s
/-- R214, and R215 in an Aligned block. -/
def execMatchSlot54 (lh : BitVec 3) (s : State) : Outcome := (matchSlot 54 lh).run s
/-- R214, and R215 in an Aligned block. -/
def execMatchSlot55 (lh : BitVec 3) (s : State) : Outcome := (matchSlot 55 lh).run s
/-- R214, and R215 in an Aligned block. -/
def execMatchSlot56 (lh : BitVec 3) (s : State) : Outcome := (matchSlot 56 lh).run s
/-- R214, and R215 in an Aligned block. -/
def execMatchSlot57 (lh : BitVec 3) (s : State) : Outcome := (matchSlot 57 lh).run s
/-- R214, and R215 in an Aligned block. -/
def execMatchSlot58 (lh : BitVec 3) (s : State) : Outcome := (matchSlot 58 lh).run s
/-- R214, and R215 in an Aligned block. -/
def execMatchSlot59 (lh : BitVec 3) (s : State) : Outcome := (matchSlot 59 lh).run s
/-- R214, and R215 in an Aligned block. -/
def execMatchSlot60 (lh : BitVec 3) (s : State) : Outcome := (matchSlot 60 lh).run s
/-- R214, and R215 in an Aligned block. -/
def execMatchSlot61 (lh : BitVec 3) (s : State) : Outcome := (matchSlot 61 lh).run s
/-- R214, and R215 in an Aligned block. -/
def execMatchSlot62 (lh : BitVec 3) (s : State) : Outcome := (matchSlot 62 lh).run s
/-- R214, and R215 in an Aligned block. -/
def execMatchSlot63 (lh : BitVec 3) (s : State) : Outcome := (matchSlot 63 lh).run s
/-- R214, and R215 in an Aligned block. -/
def execMatchSlot64 (lh : BitVec 3) (s : State) : Outcome := (matchSlot 64 lh).run s
/-- R214, and R215 in an Aligned block. -/
def execMatchSlot65 (lh : BitVec 3) (s : State) : Outcome := (matchSlot 65 lh).run s
/-- R214, and R215 in an Aligned block. -/
def execMatchSlot66 (lh : BitVec 3) (s : State) : Outcome := (matchSlot 66 lh).run s
/-- R214, and R215 in an Aligned block. -/
def execMatchSlot67 (lh : BitVec 3) (s : State) : Outcome := (matchSlot 67 lh).run s
/-- R214, and R215 in an Aligned block. -/
def execMatchSlot68 (lh : BitVec 3) (s : State) : Outcome := (matchSlot 68 lh).run s
/-- R214, and R215 in an Aligned block. -/
def execMatchSlot69 (lh : BitVec 3) (s : State) : Outcome := (matchSlot 69 lh).run s
/-- R214, and R215 in an Aligned block. -/
def execMatchSlot70 (lh : BitVec 3) (s : State) : Outcome := (matchSlot 70 lh).run s
/-- R214, and R215 in an Aligned block. -/
def execMatchSlot71 (lh : BitVec 3) (s : State) : Outcome := (matchSlot 71 lh).run s
/-- R214, and R215 in an Aligned block. -/
def execMatchSlot72 (lh : BitVec 3) (s : State) : Outcome := (matchSlot 72 lh).run s
/-- R214, and R215 in an Aligned block. -/
def execMatchSlot73 (lh : BitVec 3) (s : State) : Outcome := (matchSlot 73 lh).run s
/-- R214, and R215 in an Aligned block. -/
def execMatchSlot74 (lh : BitVec 3) (s : State) : Outcome := (matchSlot 74 lh).run s
/-- R214, and R215 in an Aligned block. -/
def execMatchSlot75 (lh : BitVec 3) (s : State) : Outcome := (matchSlot 75 lh).run s
/-- R214, and R215 in an Aligned block. -/
def execMatchSlot76 (lh : BitVec 3) (s : State) : Outcome := (matchSlot 76 lh).run s
/-- R214, and R215 in an Aligned block. -/
def execMatchSlot77 (lh : BitVec 3) (s : State) : Outcome := (matchSlot 77 lh).run s
/-- R214, and R215 in an Aligned block. -/
def execMatchSlot78 (lh : BitVec 3) (s : State) : Outcome := (matchSlot 78 lh).run s
/-- R214, and R215 in an Aligned block. -/
def execMatchSlot79 (lh : BitVec 3) (s : State) : Outcome := (matchSlot 79 lh).run s
/-- R214, and R215 in an Aligned block. -/
def execMatchSlot80 (lh : BitVec 3) (s : State) : Outcome := (matchSlot 80 lh).run s
/-- R214, and R215 in an Aligned block. -/
def execMatchSlot81 (lh : BitVec 3) (s : State) : Outcome := (matchSlot 81 lh).run s
/-- R214, and R215 in an Aligned block. -/
def execMatchSlot82 (lh : BitVec 3) (s : State) : Outcome := (matchSlot 82 lh).run s
/-- R214, and R215 in an Aligned block. -/
def execMatchSlot83 (lh : BitVec 3) (s : State) : Outcome := (matchSlot 83 lh).run s
/-- R214, and R215 in an Aligned block. -/
def execMatchSlot84 (lh : BitVec 3) (s : State) : Outcome := (matchSlot 84 lh).run s
/-- R214, and R215 in an Aligned block. -/
def execMatchSlot85 (lh : BitVec 3) (s : State) : Outcome := (matchSlot 85 lh).run s
/-- R214, and R215 in an Aligned block. -/
def execMatchSlot86 (lh : BitVec 3) (s : State) : Outcome := (matchSlot 86 lh).run s
/-- R214, and R215 in an Aligned block. -/
def execMatchSlot87 (lh : BitVec 3) (s : State) : Outcome := (matchSlot 87 lh).run s
/-- R214, and R215 in an Aligned block. -/
def execMatchSlot88 (lh : BitVec 3) (s : State) : Outcome := (matchSlot 88 lh).run s
/-- R214, and R215 in an Aligned block. -/
def execMatchSlot89 (lh : BitVec 3) (s : State) : Outcome := (matchSlot 89 lh).run s
/-- R214, and R215 in an Aligned block. -/
def execMatchSlot90 (lh : BitVec 3) (s : State) : Outcome := (matchSlot 90 lh).run s
/-- R214, and R215 in an Aligned block. -/
def execMatchSlot91 (lh : BitVec 3) (s : State) : Outcome := (matchSlot 91 lh).run s
/-- R214, and R215 in an Aligned block. -/
def execMatchSlot92 (lh : BitVec 3) (s : State) : Outcome := (matchSlot 92 lh).run s
/-- R214, and R215 in an Aligned block. -/
def execMatchSlot93 (lh : BitVec 3) (s : State) : Outcome := (matchSlot 93 lh).run s
/-- R214, and R215 in an Aligned block. -/
def execMatchSlot94 (lh : BitVec 3) (s : State) : Outcome := (matchSlot 94 lh).run s
/-- R214, and R215 in an Aligned block. -/
def execMatchSlot95 (lh : BitVec 3) (s : State) : Outcome := (matchSlot 95 lh).run s
/-- R214, and R215 in an Aligned block. -/
def execMatchSlot96 (lh : BitVec 3) (s : State) : Outcome := (matchSlot 96 lh).run s
/-- R214, and R215 in an Aligned block. -/
def execMatchSlot97 (lh : BitVec 3) (s : State) : Outcome := (matchSlot 97 lh).run s

end Sys2Proof.Machine
end

