-- ==== Sys2Proof/Machine/Reader.lean ====
section
/-! DEFINITION. Reader.lean: the meanings of the BitReader operations (40_bitreader.md). -/

namespace Sys2Proof.Machine

/-- R130. -/
def execBrLoad (data : List Byte) (s : State) : Outcome := (Op.modify fun t => t.setBr (Reader.load data)).run s

/-- R131. -/
def execFetchWord (s : State) : Outcome := fetchWord.run s

/-- R132; `n > 32` is outside the operation's domain. -/
def execReadBits (n : Nat) (s : State) : Outcome :=
  if n ≤ 32 then (readBits n).runRet .num s else .refused .outsideDomain

/-- R133; `n > 32` is outside the operation's domain. -/
def execPeekBits (n : Nat) (s : State) : Outcome :=
  if n ≤ 32 then (peekBits n).runRet .num s else .refused .outsideDomain

/-- R134. -/
def execReadU32le (s : State) : Outcome := readU32le.runRet (fun v => .num v.toNat) s

/-- R135. -/
def execReadU24be (s : State) : Outcome := readU24be.runRet (fun v => .num v.toNat) s

/-- R136. -/
def execReadByte (s : State) : Outcome := readByte.runRet (fun v => .num v.toNat) s

/-- R137. -/
def execAlign (s : State) : Outcome := align.run s

/-- R138. -/
def execReadBytes (n : Nat) (s : State) : Outcome := (readBytes n).runRet .bytes s

/-- R138 with a destination: in this core always the window (R244). -/
def execReadBytesInto (n : Nat) (s : State) : Outcome := (copyFromBitstream n).run s

/-- R140. -/
def execInputRemaining (s : State) : Outcome := inputRemaining.runRet .num s

end Sys2Proof.Machine
end

