-- ==== Sys2Proof/Machine/WindowOps.lean ====
section
/-! DEFINITION. WindowOps.lean: the meanings of the SlidingWindow operations (44_window.md). -/

namespace Sys2Proof.Machine

/-- R240. -/
def execPush (byte : Byte) (s : State) : Outcome := (push byte).run s

/-- R241, R242. -/
def execCopyFromSelf (offset length : Nat) (s : State) : Outcome := (copyFromSelf offset length).run s

/-- R244. -/
def execCopyFromBitstream (n : Nat) (s : State) : Outcome := (copyFromBitstream n).run s

/-- R245; `n` is at most 32768 (R246). -/
def execPastView (n : Nat) (s : State) : Outcome :=
  if n ≤ Config.outputMax then (pastView n).runRet .bytes s else .refused .outsideDomain

end Sys2Proof.Machine
end

