-- ==== Sys2Proof/Machine/Command.lean ====
section
/-! DEFINITION. Command.lean: the E8 flag, the padding rows and the host commands (45_decoder.md). A chunk command's meaning is the
whole of R263, written as the spec writes it; a step runs the same command one stream element at a time (Sequence.lean). -/

namespace Sys2Proof.Machine

/-! ### Chunk prefix and padding -/

/-- The E8 flag, tested at once (R265). -/
def e8Flag (bit : Nat) : Op Unit := if bit = 1 then Op.raise .unsupportedE8 else Op.pure ()

/-- R265: decoding proceeds. -/
def execE8Clear (s : State) : Outcome := (e8Flag 0).run s

/-- R265, R306. -/
def execE8Set (s : State) : Outcome := (e8Flag 1).run s

/-- The pad byte: one `readByte()`, its value ignored (R117, R267). -/
def skipPadByte : Op Unit := readByte.bind fun _ => Op.pure ()

/-- R267. -/
def execPadByte (s : State) : Outcome := skipPadByte.run s

/-- Steps 4 and 5 of R263 (R270, R271): the output delivered, the counters advanced, the command completed.
DESIGN CHOICE (log 26): `IN`, `BR.*`, `outputSize`, `produced` and `OUT`, which have no meaning between commands (R22, R26, R45, R276,
R349), keep what the command left in them until the next one starts. -/
def finishChunk : Op Unit := fun s =>
  let view := s.win.view s.cfg.windowSize s.cmd.outputSize
  .ok () { s with
    out := view
    chunkOffset := advanceChunkOffset s.chunkOffset s.cmd.outputSize
    decodedChunks := countChunk s.decodedChunks
    result := if s.cmd.wantBytes then .bytes view else .bytesWritten s.cmd.outputSize }

/-- R91: nothing of the tail is read, the cursor stays, and the command completes (log 11). -/
def execChunkTail (s : State) : Outcome := finishChunk.run s

/-! ### Configuration and reset -/

/-- R261: a legal window size gives every reset value of R49; any other leaves the core unconstructed, with the result
`Fault(7, 0)` and `FAULT.*` not written (R307; log 6). -/
def execConstruct (windowSize : Nat) (s : State) : Outcome :=
  match positionSlots? windowSize with
  | some slots => .next ((initState ⟨windowSize, slots⟩ s).setResult .completed)
  | none => .next (s.unconstructed.setResult (.fault FaultKind.invalidConfiguration.code FaultKind.invalidConfiguration.info))

/-- R262, accepted while FAULTED; refused on an unconstructed core (R310). -/
def execReset (s : State) : Outcome :=
  if s.constructed then .next ((initState s.cfg s).setResult .completed) else .next (s.setResult (.refused .notConstructed))

/-! ### Chunk commands -/

/-- The refusals of R263, in its order (R310). -/
def refusal? (len outputSize : Nat) (s : State) : Option RefusalReason :=
  if !s.constructed then some .notConstructed
  else if s.faulted then some .faulted
  else if outputSize > Config.outputMax then some .outputSizeRange
  else if len > Config.inMaxBytes then some .inputLengthRange
  else none

/-- Step 1 (R264): a fresh reader on the chunk, nothing produced, nothing written to `OUT`, the result not known. -/
def startChunk (data : List Byte) (outputSize : Nat) (wantBytes : Bool) (s : State) : State :=
  { s with br := Reader.load data, cmd := ⟨outputSize, 0, wantBytes⟩, out := [], result := .none, phase := .idle }

/-- Step 2 (R265). -/
def readE8 : Op Unit := fun s => if s.firstChunk then ((readBits 1).bind e8Flag) s else .ok () s

/-- The pad byte where one is owed (R267). -/
def skipOwedPadByte : Op Unit := fun s => if s.padOwed then skipPadByte s else .ok () s

/-- Step 3a (R267). -/
def startBlock : Op Unit := fun s => if s.blockExhausted then (skipOwedPadByte.andThen readBlock) s else .ok () s

/-- One pass of the loop (R263, steps 3a to 3d). -/
def loopPass : Op Unit := startBlock.andThen (decodeElement.bind takeElement)

/-- Step 3 (R266). Every pass produces at least one byte, so `outputSize` passes are enough. -/
def chunkLoop : Nat → Op Unit
  | 0 => Op.pure ()
  | n + 1 => fun s => if s.wantsMore then (loopPass.andThen (chunkLoop n)) s else .ok () s

/-- Steps 2 to 5 (R263). -/
def chunkBody (outputSize : Nat) : Op Unit := readE8.andThen ((chunkLoop outputSize).andThen finishChunk)

/-- A whole chunk command (R263). -/
def runChunk (data : List Byte) (outputSize : Nat) (wantBytes : Bool) (s : State) : Outcome :=
  match refusal? data.length outputSize s with
  | some reason => .next (s.setResult (.refused reason))
  | none => (chunkBody outputSize).run (startChunk data outputSize wantBytes s)

/-- R263. -/
def execDecompressChunkInto (data : List Byte) (outputSize : Nat) (s : State) : Outcome := runChunk data outputSize false s

/-- R272. -/
def execDecompressChunk (data : List Byte) (outputSize : Option Nat) (s : State) : Outcome :=
  runChunk data (outputSizeArg outputSize) true s

end Sys2Proof.Machine
end

