-- ==== Sys2Proof/Machine/Dispatch.lean ====
section
/-! DEFINITION. Dispatch.lean: one arm per instruction. -/

namespace Sys2Proof.Machine

def exec (i : Instr) (s : State) : Host.Outcome State Fault Refusal :=
  match i with
  | .e8Clear => Sys2Proof.Machine.execE8Clear s
  | .e8Set => Sys2Proof.Machine.execE8Set s
  | .blockInvalid0 size => Sys2Proof.Machine.execBlockInvalid0 size s
  | .blockVerbatim size => Sys2Proof.Machine.execBlockVerbatim size s
  | .blockAligned size => Sys2Proof.Machine.execBlockAligned size s
  | .blockUncompressed size => Sys2Proof.Machine.execBlockUncompressed size s
  | .blockInvalid4 size => Sys2Proof.Machine.execBlockInvalid4 size s
  | .blockInvalid5 size => Sys2Proof.Machine.execBlockInvalid5 size s
  | .blockInvalid6 size => Sys2Proof.Machine.execBlockInvalid6 size s
  | .blockInvalid7 size => Sys2Proof.Machine.execBlockInvalid7 size s
  | .ptDelta0 => Sys2Proof.Machine.execPtDelta0 s
  | .ptDelta1 => Sys2Proof.Machine.execPtDelta1 s
  | .ptDelta2 => Sys2Proof.Machine.execPtDelta2 s
  | .ptDelta3 => Sys2Proof.Machine.execPtDelta3 s
  | .ptDelta4 => Sys2Proof.Machine.execPtDelta4 s
  | .ptDelta5 => Sys2Proof.Machine.execPtDelta5 s
  | .ptDelta6 => Sys2Proof.Machine.execPtDelta6 s
  | .ptDelta7 => Sys2Proof.Machine.execPtDelta7 s
  | .ptDelta8 => Sys2Proof.Machine.execPtDelta8 s
  | .ptDelta9 => Sys2Proof.Machine.execPtDelta9 s
  | .ptDelta10 => Sys2Proof.Machine.execPtDelta10 s
  | .ptDelta11 => Sys2Proof.Machine.execPtDelta11 s
  | .ptDelta12 => Sys2Proof.Machine.execPtDelta12 s
  | .ptDelta13 => Sys2Proof.Machine.execPtDelta13 s
  | .ptDelta14 => Sys2Proof.Machine.execPtDelta14 s
  | .ptDelta15 => Sys2Proof.Machine.execPtDelta15 s
  | .ptDelta16 => Sys2Proof.Machine.execPtDelta16 s
  | .ptZeroRunShort => Sys2Proof.Machine.execPtZeroRunShort s
  | .ptZeroRunLong => Sys2Proof.Machine.execPtZeroRunLong s
  | .ptSameRun => Sys2Proof.Machine.execPtSameRun s
  | .literal byte => Sys2Proof.Machine.execLiteral byte s
  | .matchSlot0 lh => Sys2Proof.Machine.execMatchSlot0 lh s
  | .matchSlot1 lh => Sys2Proof.Machine.execMatchSlot1 lh s
  | .matchSlot2 lh => Sys2Proof.Machine.execMatchSlot2 lh s
  | .matchSlot3 lh => Sys2Proof.Machine.execMatchSlot3 lh s
  | .matchSlot4 lh => Sys2Proof.Machine.execMatchSlot4 lh s
  | .matchSlot5 lh => Sys2Proof.Machine.execMatchSlot5 lh s
  | .matchSlot6 lh => Sys2Proof.Machine.execMatchSlot6 lh s
  | .matchSlot7 lh => Sys2Proof.Machine.execMatchSlot7 lh s
  | .matchSlot8 lh => Sys2Proof.Machine.execMatchSlot8 lh s
  | .matchSlot9 lh => Sys2Proof.Machine.execMatchSlot9 lh s
  | .matchSlot10 lh => Sys2Proof.Machine.execMatchSlot10 lh s
  | .matchSlot11 lh => Sys2Proof.Machine.execMatchSlot11 lh s
  | .matchSlot12 lh => Sys2Proof.Machine.execMatchSlot12 lh s
  | .matchSlot13 lh => Sys2Proof.Machine.execMatchSlot13 lh s
  | .matchSlot14 lh => Sys2Proof.Machine.execMatchSlot14 lh s
  | .matchSlot15 lh => Sys2Proof.Machine.execMatchSlot15 lh s
  | .matchSlot16 lh => Sys2Proof.Machine.execMatchSlot16 lh s
  | .matchSlot17 lh => Sys2Proof.Machine.execMatchSlot17 lh s
  | .matchSlot18 lh => Sys2Proof.Machine.execMatchSlot18 lh s
  | .matchSlot19 lh => Sys2Proof.Machine.execMatchSlot19 lh s
  | .matchSlot20 lh => Sys2Proof.Machine.execMatchSlot20 lh s
  | .matchSlot21 lh => Sys2Proof.Machine.execMatchSlot21 lh s
  | .matchSlot22 lh => Sys2Proof.Machine.execMatchSlot22 lh s
  | .matchSlot23 lh => Sys2Proof.Machine.execMatchSlot23 lh s
  | .matchSlot24 lh => Sys2Proof.Machine.execMatchSlot24 lh s
  | .matchSlot25 lh => Sys2Proof.Machine.execMatchSlot25 lh s
  | .matchSlot26 lh => Sys2Proof.Machine.execMatchSlot26 lh s
  | .matchSlot27 lh => Sys2Proof.Machine.execMatchSlot27 lh s
  | .matchSlot28 lh => Sys2Proof.Machine.execMatchSlot28 lh s
  | .matchSlot29 lh => Sys2Proof.Machine.execMatchSlot29 lh s
  | .matchSlot30 lh => Sys2Proof.Machine.execMatchSlot30 lh s
  | .matchSlot31 lh => Sys2Proof.Machine.execMatchSlot31 lh s
  | .matchSlot32 lh => Sys2Proof.Machine.execMatchSlot32 lh s
  | .matchSlot33 lh => Sys2Proof.Machine.execMatchSlot33 lh s
  | .matchSlot34 lh => Sys2Proof.Machine.execMatchSlot34 lh s
  | .matchSlot35 lh => Sys2Proof.Machine.execMatchSlot35 lh s
  | .matchSlot36 lh => Sys2Proof.Machine.execMatchSlot36 lh s
  | .matchSlot37 lh => Sys2Proof.Machine.execMatchSlot37 lh s
  | .matchSlot38 lh => Sys2Proof.Machine.execMatchSlot38 lh s
  | .matchSlot39 lh => Sys2Proof.Machine.execMatchSlot39 lh s
  | .matchSlot40 lh => Sys2Proof.Machine.execMatchSlot40 lh s
  | .matchSlot41 lh => Sys2Proof.Machine.execMatchSlot41 lh s
  | .matchSlot42 lh => Sys2Proof.Machine.execMatchSlot42 lh s
  | .matchSlot43 lh => Sys2Proof.Machine.execMatchSlot43 lh s
  | .matchSlot44 lh => Sys2Proof.Machine.execMatchSlot44 lh s
  | .matchSlot45 lh => Sys2Proof.Machine.execMatchSlot45 lh s
  | .matchSlot46 lh => Sys2Proof.Machine.execMatchSlot46 lh s
  | .matchSlot47 lh => Sys2Proof.Machine.execMatchSlot47 lh s
  | .matchSlot48 lh => Sys2Proof.Machine.execMatchSlot48 lh s
  | .matchSlot49 lh => Sys2Proof.Machine.execMatchSlot49 lh s
  | .matchSlot50 lh => Sys2Proof.Machine.execMatchSlot50 lh s
  | .matchSlot51 lh => Sys2Proof.Machine.execMatchSlot51 lh s
  | .matchSlot52 lh => Sys2Proof.Machine.execMatchSlot52 lh s
  | .matchSlot53 lh => Sys2Proof.Machine.execMatchSlot53 lh s
  | .matchSlot54 lh => Sys2Proof.Machine.execMatchSlot54 lh s
  | .matchSlot55 lh => Sys2Proof.Machine.execMatchSlot55 lh s
  | .matchSlot56 lh => Sys2Proof.Machine.execMatchSlot56 lh s
  | .matchSlot57 lh => Sys2Proof.Machine.execMatchSlot57 lh s
  | .matchSlot58 lh => Sys2Proof.Machine.execMatchSlot58 lh s
  | .matchSlot59 lh => Sys2Proof.Machine.execMatchSlot59 lh s
  | .matchSlot60 lh => Sys2Proof.Machine.execMatchSlot60 lh s
  | .matchSlot61 lh => Sys2Proof.Machine.execMatchSlot61 lh s
  | .matchSlot62 lh => Sys2Proof.Machine.execMatchSlot62 lh s
  | .matchSlot63 lh => Sys2Proof.Machine.execMatchSlot63 lh s
  | .matchSlot64 lh => Sys2Proof.Machine.execMatchSlot64 lh s
  | .matchSlot65 lh => Sys2Proof.Machine.execMatchSlot65 lh s
  | .matchSlot66 lh => Sys2Proof.Machine.execMatchSlot66 lh s
  | .matchSlot67 lh => Sys2Proof.Machine.execMatchSlot67 lh s
  | .matchSlot68 lh => Sys2Proof.Machine.execMatchSlot68 lh s
  | .matchSlot69 lh => Sys2Proof.Machine.execMatchSlot69 lh s
  | .matchSlot70 lh => Sys2Proof.Machine.execMatchSlot70 lh s
  | .matchSlot71 lh => Sys2Proof.Machine.execMatchSlot71 lh s
  | .matchSlot72 lh => Sys2Proof.Machine.execMatchSlot72 lh s
  | .matchSlot73 lh => Sys2Proof.Machine.execMatchSlot73 lh s
  | .matchSlot74 lh => Sys2Proof.Machine.execMatchSlot74 lh s
  | .matchSlot75 lh => Sys2Proof.Machine.execMatchSlot75 lh s
  | .matchSlot76 lh => Sys2Proof.Machine.execMatchSlot76 lh s
  | .matchSlot77 lh => Sys2Proof.Machine.execMatchSlot77 lh s
  | .matchSlot78 lh => Sys2Proof.Machine.execMatchSlot78 lh s
  | .matchSlot79 lh => Sys2Proof.Machine.execMatchSlot79 lh s
  | .matchSlot80 lh => Sys2Proof.Machine.execMatchSlot80 lh s
  | .matchSlot81 lh => Sys2Proof.Machine.execMatchSlot81 lh s
  | .matchSlot82 lh => Sys2Proof.Machine.execMatchSlot82 lh s
  | .matchSlot83 lh => Sys2Proof.Machine.execMatchSlot83 lh s
  | .matchSlot84 lh => Sys2Proof.Machine.execMatchSlot84 lh s
  | .matchSlot85 lh => Sys2Proof.Machine.execMatchSlot85 lh s
  | .matchSlot86 lh => Sys2Proof.Machine.execMatchSlot86 lh s
  | .matchSlot87 lh => Sys2Proof.Machine.execMatchSlot87 lh s
  | .matchSlot88 lh => Sys2Proof.Machine.execMatchSlot88 lh s
  | .matchSlot89 lh => Sys2Proof.Machine.execMatchSlot89 lh s
  | .matchSlot90 lh => Sys2Proof.Machine.execMatchSlot90 lh s
  | .matchSlot91 lh => Sys2Proof.Machine.execMatchSlot91 lh s
  | .matchSlot92 lh => Sys2Proof.Machine.execMatchSlot92 lh s
  | .matchSlot93 lh => Sys2Proof.Machine.execMatchSlot93 lh s
  | .matchSlot94 lh => Sys2Proof.Machine.execMatchSlot94 lh s
  | .matchSlot95 lh => Sys2Proof.Machine.execMatchSlot95 lh s
  | .matchSlot96 lh => Sys2Proof.Machine.execMatchSlot96 lh s
  | .matchSlot97 lh => Sys2Proof.Machine.execMatchSlot97 lh s
  | .lenHdr0 => Sys2Proof.Machine.execLenHdr0 s
  | .lenHdr1 => Sys2Proof.Machine.execLenHdr1 s
  | .lenHdr2 => Sys2Proof.Machine.execLenHdr2 s
  | .lenHdr3 => Sys2Proof.Machine.execLenHdr3 s
  | .lenHdr4 => Sys2Proof.Machine.execLenHdr4 s
  | .lenHdr5 => Sys2Proof.Machine.execLenHdr5 s
  | .lenHdr6 => Sys2Proof.Machine.execLenHdr6 s
  | .lenHdr7 => Sys2Proof.Machine.execLenHdr7 s
  | .lengthSymbol t => Sys2Proof.Machine.execLengthSymbol t s
  | .alignedSymbol a => Sys2Proof.Machine.execAlignedSymbol a s
  | .uncompressedRValues r0 r1 r2 => Sys2Proof.Machine.execUncompressedRValues r0 r1 r2 s
  | .rawBytes => Sys2Proof.Machine.execRawBytes s
  | .alignedLengths l => Sys2Proof.Machine.execAlignedLengths l s
  | .pretreeLengths l => Sys2Proof.Machine.execPretreeLengths l s
  | .footerBitsField => Sys2Proof.Machine.execFooterBitsField s
  | .alignPadding => Sys2Proof.Machine.execAlignPadding s
  | .padByte => Sys2Proof.Machine.execPadByte s
  | .chunkTail => Sys2Proof.Machine.execChunkTail s
  | .brLoad data => Sys2Proof.Machine.execBrLoad data s
  | .fetchWord => Sys2Proof.Machine.execFetchWord s
  | .readBits n => Sys2Proof.Machine.execReadBits n s
  | .peekBits n => Sys2Proof.Machine.execPeekBits n s
  | .readU32le => Sys2Proof.Machine.execReadU32le s
  | .readU24be => Sys2Proof.Machine.execReadU24be s
  | .readByte => Sys2Proof.Machine.execReadByte s
  | .align => Sys2Proof.Machine.execAlign s
  | .readBytes n => Sys2Proof.Machine.execReadBytes n s
  | .readBytesInto n => Sys2Proof.Machine.execReadBytesInto n s
  | .inputRemaining => Sys2Proof.Machine.execInputRemaining s
  | .buildTable k => Sys2Proof.Machine.execBuildTable k s
  | .decodeSymbol k => Sys2Proof.Machine.execDecodeSymbol k s
  | .readPretree => Sys2Proof.Machine.execReadPretree s
  | .updateRange t start stop => Sys2Proof.Machine.execUpdateRange t start stop s
  | .readTables => Sys2Proof.Machine.execReadTables s
  | .readAlignedTree => Sys2Proof.Machine.execReadAlignedTree s
  | .readBlock => Sys2Proof.Machine.execReadBlock s
  | .readUncompressedBody => Sys2Proof.Machine.execReadUncompressedBody s
  | .decodeElement => Sys2Proof.Machine.execDecodeElement s
  | .decodeUncompressed => Sys2Proof.Machine.execDecodeUncompressed s
  | .decodeCoded => Sys2Proof.Machine.execDecodeCoded s
  | .matchLength lh => Sys2Proof.Machine.execMatchLength lh s
  | .matchOffsetSlot0 => Sys2Proof.Machine.execMatchOffsetSlot0 s
  | .matchOffsetSlot1 => Sys2Proof.Machine.execMatchOffsetSlot1 s
  | .matchOffsetSlot2 => Sys2Proof.Machine.execMatchOffsetSlot2 s
  | .matchOffsetVerbatim slot => Sys2Proof.Machine.execMatchOffsetVerbatim slot s
  | .matchOffsetAligned slot => Sys2Proof.Machine.execMatchOffsetAligned slot s
  | .matchOffsetAlignedShort slot => Sys2Proof.Machine.execMatchOffsetAlignedShort slot s
  | .pushOffset offset => Sys2Proof.Machine.execPushOffset offset s
  | .push byte => Sys2Proof.Machine.execPush byte s
  | .copyFromSelf offset length => Sys2Proof.Machine.execCopyFromSelf offset length s
  | .copyFromBitstream n => Sys2Proof.Machine.execCopyFromBitstream n s
  | .pastView n => Sys2Proof.Machine.execPastView n s
  | .construct windowSize => Sys2Proof.Machine.execConstruct windowSize s
  | .reset => Sys2Proof.Machine.execReset s
  | .decompressChunkInto data outputSize => Sys2Proof.Machine.execDecompressChunkInto data outputSize s
  | .decompressChunk data outputSize => Sys2Proof.Machine.execDecompressChunk data outputSize s

end Sys2Proof.Machine
end

