-- ==== Sys2Proof/WellFormed.lean ====
section
/-! DEFINITION. WellFormed.lean: the operands an instruction may have. A host argument the core itself refuses or faults on (a
window size, an output size) is well formed: refusing it is the instruction's own effect (R261, R310). -/

namespace Sys2Proof

/-- The instruction's operands lie in the domain the spec gives it (R8, R103, R132, R133, R181, R214 to R216, R245). -/
def Instr.wellFormed : Instr → Bool
  | .e8Clear => true
  | .e8Set => true
  | .blockInvalid0 _ => true
  | .blockVerbatim _ => true
  | .blockAligned _ => true
  | .blockUncompressed _ => true
  | .blockInvalid4 _ => true
  | .blockInvalid5 _ => true
  | .blockInvalid6 _ => true
  | .blockInvalid7 _ => true
  | .ptDelta0 => true
  | .ptDelta1 => true
  | .ptDelta2 => true
  | .ptDelta3 => true
  | .ptDelta4 => true
  | .ptDelta5 => true
  | .ptDelta6 => true
  | .ptDelta7 => true
  | .ptDelta8 => true
  | .ptDelta9 => true
  | .ptDelta10 => true
  | .ptDelta11 => true
  | .ptDelta12 => true
  | .ptDelta13 => true
  | .ptDelta14 => true
  | .ptDelta15 => true
  | .ptDelta16 => true
  | .ptZeroRunShort => true
  | .ptZeroRunLong => true
  | .ptSameRun => true
  | .literal _ => true
  | .matchSlot0 _ => true
  | .matchSlot1 _ => true
  | .matchSlot2 _ => true
  | .matchSlot3 _ => true
  | .matchSlot4 _ => true
  | .matchSlot5 _ => true
  | .matchSlot6 _ => true
  | .matchSlot7 _ => true
  | .matchSlot8 _ => true
  | .matchSlot9 _ => true
  | .matchSlot10 _ => true
  | .matchSlot11 _ => true
  | .matchSlot12 _ => true
  | .matchSlot13 _ => true
  | .matchSlot14 _ => true
  | .matchSlot15 _ => true
  | .matchSlot16 _ => true
  | .matchSlot17 _ => true
  | .matchSlot18 _ => true
  | .matchSlot19 _ => true
  | .matchSlot20 _ => true
  | .matchSlot21 _ => true
  | .matchSlot22 _ => true
  | .matchSlot23 _ => true
  | .matchSlot24 _ => true
  | .matchSlot25 _ => true
  | .matchSlot26 _ => true
  | .matchSlot27 _ => true
  | .matchSlot28 _ => true
  | .matchSlot29 _ => true
  | .matchSlot30 _ => true
  | .matchSlot31 _ => true
  | .matchSlot32 _ => true
  | .matchSlot33 _ => true
  | .matchSlot34 _ => true
  | .matchSlot35 _ => true
  | .matchSlot36 _ => true
  | .matchSlot37 _ => true
  | .matchSlot38 _ => true
  | .matchSlot39 _ => true
  | .matchSlot40 _ => true
  | .matchSlot41 _ => true
  | .matchSlot42 _ => true
  | .matchSlot43 _ => true
  | .matchSlot44 _ => true
  | .matchSlot45 _ => true
  | .matchSlot46 _ => true
  | .matchSlot47 _ => true
  | .matchSlot48 _ => true
  | .matchSlot49 _ => true
  | .matchSlot50 _ => true
  | .matchSlot51 _ => true
  | .matchSlot52 _ => true
  | .matchSlot53 _ => true
  | .matchSlot54 _ => true
  | .matchSlot55 _ => true
  | .matchSlot56 _ => true
  | .matchSlot57 _ => true
  | .matchSlot58 _ => true
  | .matchSlot59 _ => true
  | .matchSlot60 _ => true
  | .matchSlot61 _ => true
  | .matchSlot62 _ => true
  | .matchSlot63 _ => true
  | .matchSlot64 _ => true
  | .matchSlot65 _ => true
  | .matchSlot66 _ => true
  | .matchSlot67 _ => true
  | .matchSlot68 _ => true
  | .matchSlot69 _ => true
  | .matchSlot70 _ => true
  | .matchSlot71 _ => true
  | .matchSlot72 _ => true
  | .matchSlot73 _ => true
  | .matchSlot74 _ => true
  | .matchSlot75 _ => true
  | .matchSlot76 _ => true
  | .matchSlot77 _ => true
  | .matchSlot78 _ => true
  | .matchSlot79 _ => true
  | .matchSlot80 _ => true
  | .matchSlot81 _ => true
  | .matchSlot82 _ => true
  | .matchSlot83 _ => true
  | .matchSlot84 _ => true
  | .matchSlot85 _ => true
  | .matchSlot86 _ => true
  | .matchSlot87 _ => true
  | .matchSlot88 _ => true
  | .matchSlot89 _ => true
  | .matchSlot90 _ => true
  | .matchSlot91 _ => true
  | .matchSlot92 _ => true
  | .matchSlot93 _ => true
  | .matchSlot94 _ => true
  | .matchSlot95 _ => true
  | .matchSlot96 _ => true
  | .matchSlot97 _ => true
  | .lenHdr0 => true
  | .lenHdr1 => true
  | .lenHdr2 => true
  | .lenHdr3 => true
  | .lenHdr4 => true
  | .lenHdr5 => true
  | .lenHdr6 => true
  | .lenHdr7 => true
  | .lengthSymbol t => decide (t.toNat < 249)
  | .alignedSymbol _ => true
  | .uncompressedRValues _ _ _ => true
  | .rawBytes => true
  | .alignedLengths _ => true
  | .pretreeLengths _ => true
  | .footerBitsField => true
  | .alignPadding => true
  | .padByte => true
  | .chunkTail => true
  | .brLoad _ => true
  | .fetchWord => true
  | .readBits n => decide (n ≤ 32)
  | .peekBits n => decide (n ≤ 32)
  | .readU32le => true
  | .readU24be => true
  | .readByte => true
  | .align => true
  | .readBytes _ => true
  | .readBytesInto _ => true
  | .inputRemaining => true
  | .buildTable _ => true
  | .decodeSymbol _ => true
  | .readPretree => true
  | .updateRange t start stop => decide (start ≤ stop ∧ stop ≤ t.maxSize)
  | .readTables => true
  | .readAlignedTree => true
  | .readBlock => true
  | .readUncompressedBody => true
  | .decodeElement => true
  | .decodeUncompressed => true
  | .decodeCoded => true
  | .matchLength _ => true
  | .matchOffsetSlot0 => true
  | .matchOffsetSlot1 => true
  | .matchOffsetSlot2 => true
  | .matchOffsetVerbatim slot => decide (3 ≤ slot ∧ slot < 98)
  | .matchOffsetAligned slot => decide (8 ≤ slot ∧ slot < 98)
  | .matchOffsetAlignedShort slot => decide (3 ≤ slot ∧ slot ≤ 7)
  | .pushOffset _ => true
  | .push _ => true
  | .copyFromSelf _ _ => true
  | .copyFromBitstream _ => true
  | .pastView n => decide (n ≤ Config.outputMax)
  | .construct _ => true
  | .reset => true
  | .decompressChunkInto _ _ => true
  | .decompressChunk _ _ => true

end Sys2Proof
end

