-- ==== Sys2Proof/Decode.lean ====
section
/-! DEFINITION. Decode.lean: the stream encoding (R90 to R117). The stream has no single word format: what the core decodes next
is set by where it is (R91, R112, R116), so a pattern is a `Format` and a number, and decoding is total on both. The encoder is
written beside it from the same tables. For the symbol formats the pattern is the decoded symbol number (R116): the stream bits of
a symbol are set by the Huffman tables in force (R101). -/

namespace Sys2Proof

/-- The formats of the opcode table that have a pattern or a place of their own in the stream (R116). -/
inductive Format
  | chunkPrefix
  | blockHeader
  | pretreeSymbol
  | mainSymbol
  | lengthHeader
  | lengthSymbol
  | alignedSymbol
  | rValues
  | rawBytes
  | alignedLengths
  | pretreeLengths
  | footerBits
  | alignPadding
  | padByte
  | chunkTail
  deriving DecidableEq, Repr

/-- The width in bits of a format's pattern (R92, R93, R98 to R100, R102, R103, R106, R203); 0 where position alone selects the
item and no bit of it is examined or its width is not fixed (R95, R105, R117, R91). -/
def Format.width : Format → Nat
  | .chunkPrefix => 1
  | .blockHeader => 27
  | .pretreeSymbol => 5
  | .mainSymbol => 11
  | .lengthHeader => 3
  | .lengthSymbol => 8
  | .alignedSymbol => 3
  | .rValues => 96
  | .rawBytes => 0
  | .alignedLengths => 24
  | .pretreeLengths => 80
  | .footerBits => 0
  | .alignPadding => 0
  | .padByte => 0
  | .chunkTail => 0

/-- Why a pattern is no instruction. -/
inductive Reject
  /-- The number has a bit above the format's width. -/
  | tooWide
  /-- A pretree symbol above 19 (R186). -/
  | noSuchPretreeSymbol
  /-- A main symbol whose slot is 98 or above (R104, R111). -/
  | noSuchMainSymbol
  /-- A length symbol above 248 (R103, R111). -/
  | noSuchLengthSymbol
  deriving DecidableEq, Repr

/-- The 27 header bits of a tag and a size: `tag` in bits 26..24, `size` in bits 23..0 (R93). -/
def headerWord (tag : Nat) (size : BitVec 24) : Nat := tag * 2 ^ 24 + size.toNat

/-- The main symbol number of a slot and a length header: `256 + 8*slot + lh` (R102). -/
def matchWord (slot : Nat) (lh : BitVec 3) : Nat := 256 + 8 * slot + lh.toNat

/-- The three offset values as the table numbers them: `r0` in bits 95..64, `r1` in 63..32, `r2` in 31..0 (R203). -/
def rValuesWord (r0 r1 r2 : BitVec 32) : Nat := r0.toNat * 2 ^ 64 + r1.toNat * 2 ^ 32 + r2.toNat

/-- Block header instructions by tag (R94). -/
def headerInstr (tag : Nat) (size : BitVec 24) : Instr :=
  match tag with
  | 0 => .blockInvalid0 size
  | 1 => .blockVerbatim size
  | 2 => .blockAligned size
  | 3 => .blockUncompressed size
  | 4 => .blockInvalid4 size
  | 5 => .blockInvalid5 size
  | 6 => .blockInvalid6 size
  | _ => .blockInvalid7 size

/-- The pretree instructions, in symbol order (R100). -/
def pretreeCtors : List Instr :=
  [Instr.ptDelta0, Instr.ptDelta1, Instr.ptDelta2, Instr.ptDelta3, Instr.ptDelta4, Instr.ptDelta5, Instr.ptDelta6, Instr.ptDelta7, Instr.ptDelta8, Instr.ptDelta9] ++
  [Instr.ptDelta10, Instr.ptDelta11, Instr.ptDelta12, Instr.ptDelta13, Instr.ptDelta14, Instr.ptDelta15, Instr.ptDelta16] ++
  [Instr.ptZeroRunShort, Instr.ptZeroRunLong, Instr.ptSameRun]

/-- The length header instructions, in order (R103). -/
def lenHdrCtors : List Instr :=
  [Instr.lenHdr0, Instr.lenHdr1, Instr.lenHdr2, Instr.lenHdr3, Instr.lenHdr4, Instr.lenHdr5, Instr.lenHdr6, Instr.lenHdr7]

/-- The match constructors, in slot order (R102, R104). -/
def slotCtors : List (BitVec 3 → Instr) :=
  [Instr.matchSlot0, Instr.matchSlot1, Instr.matchSlot2, Instr.matchSlot3, Instr.matchSlot4, Instr.matchSlot5, Instr.matchSlot6, Instr.matchSlot7, Instr.matchSlot8, Instr.matchSlot9, Instr.matchSlot10, Instr.matchSlot11, Instr.matchSlot12, Instr.matchSlot13] ++
  [Instr.matchSlot14, Instr.matchSlot15, Instr.matchSlot16, Instr.matchSlot17, Instr.matchSlot18, Instr.matchSlot19, Instr.matchSlot20, Instr.matchSlot21, Instr.matchSlot22, Instr.matchSlot23, Instr.matchSlot24, Instr.matchSlot25, Instr.matchSlot26, Instr.matchSlot27] ++
  [Instr.matchSlot28, Instr.matchSlot29, Instr.matchSlot30, Instr.matchSlot31, Instr.matchSlot32, Instr.matchSlot33, Instr.matchSlot34, Instr.matchSlot35, Instr.matchSlot36, Instr.matchSlot37, Instr.matchSlot38, Instr.matchSlot39, Instr.matchSlot40, Instr.matchSlot41] ++
  [Instr.matchSlot42, Instr.matchSlot43, Instr.matchSlot44, Instr.matchSlot45, Instr.matchSlot46, Instr.matchSlot47, Instr.matchSlot48, Instr.matchSlot49, Instr.matchSlot50, Instr.matchSlot51, Instr.matchSlot52, Instr.matchSlot53, Instr.matchSlot54, Instr.matchSlot55] ++
  [Instr.matchSlot56, Instr.matchSlot57, Instr.matchSlot58, Instr.matchSlot59, Instr.matchSlot60, Instr.matchSlot61, Instr.matchSlot62, Instr.matchSlot63, Instr.matchSlot64, Instr.matchSlot65, Instr.matchSlot66, Instr.matchSlot67, Instr.matchSlot68, Instr.matchSlot69] ++
  [Instr.matchSlot70, Instr.matchSlot71, Instr.matchSlot72, Instr.matchSlot73, Instr.matchSlot74, Instr.matchSlot75, Instr.matchSlot76, Instr.matchSlot77, Instr.matchSlot78, Instr.matchSlot79, Instr.matchSlot80, Instr.matchSlot81, Instr.matchSlot82, Instr.matchSlot83] ++
  [Instr.matchSlot84, Instr.matchSlot85, Instr.matchSlot86, Instr.matchSlot87, Instr.matchSlot88, Instr.matchSlot89, Instr.matchSlot90, Instr.matchSlot91, Instr.matchSlot92, Instr.matchSlot93, Instr.matchSlot94, Instr.matchSlot95, Instr.matchSlot96, Instr.matchSlot97]

/-- A main symbol number: a literal below 256, else a match with `lh` in bits 2..0 and the slot above (R102). -/
def mainInstr (sym : Nat) : Except Reject Instr :=
  if sym < 256 then .ok (.literal (BitVec.ofNat 8 sym))
  else
    match slotCtors[(sym - 256) / 8]? with
    | some ctor => .ok (ctor (BitVec.ofNat 3 sym))
    | none => .error .noSuchMainSymbol

/-- The decoder: total on every format and number. -/
def decode (f : Format) (w : Nat) : Except Reject Instr :=
  if 2 ^ f.width ≤ w then .error .tooWide
  else
    match f with
    | .chunkPrefix => .ok (if w = 0 then .e8Clear else .e8Set)
    | .blockHeader => .ok (headerInstr (w / 2 ^ 24) (BitVec.ofNat 24 w))
    | .pretreeSymbol =>
      match pretreeCtors[w]? with
      | some i => .ok i
      | none => .error .noSuchPretreeSymbol
    | .mainSymbol => mainInstr w
    | .lengthHeader => .ok (lenHdrCtors.getD w .lenHdr7)
    | .lengthSymbol => if w < 249 then .ok (.lengthSymbol (BitVec.ofNat 8 w)) else .error .noSuchLengthSymbol
    | .alignedSymbol => .ok (.alignedSymbol (BitVec.ofNat 3 w))
    | .rValues => .ok (.uncompressedRValues (BitVec.ofNat 32 (w / 2 ^ 64)) (BitVec.ofNat 32 (w / 2 ^ 32)) (BitVec.ofNat 32 w))
    | .rawBytes => .ok .rawBytes
    | .alignedLengths => .ok (.alignedLengths (BitVec.ofNat 24 w))
    | .pretreeLengths => .ok (.pretreeLengths (BitVec.ofNat 80 w))
    | .footerBits => .ok .footerBitsField
    | .alignPadding => .ok .alignPadding
    | .padByte => .ok .padByte
    | .chunkTail => .ok .chunkTail

/-- The pattern of an instruction that has one: its format and its bits, written from the tables of R92 to R106 and R116. A
position-selected item of no fixed bits (R116: `body_field` and `padding`) encodes as the empty pattern of its format. Component
operations and host commands have no encoding (R116). -/
def encode : Instr → Option (Format × Nat)
  | .e8Clear => some (.chunkPrefix, 0)
  | .e8Set => some (.chunkPrefix, 1)
  | .blockInvalid0 size => some (.blockHeader, headerWord 0 size)
  | .blockVerbatim size => some (.blockHeader, headerWord 1 size)
  | .blockAligned size => some (.blockHeader, headerWord 2 size)
  | .blockUncompressed size => some (.blockHeader, headerWord 3 size)
  | .blockInvalid4 size => some (.blockHeader, headerWord 4 size)
  | .blockInvalid5 size => some (.blockHeader, headerWord 5 size)
  | .blockInvalid6 size => some (.blockHeader, headerWord 6 size)
  | .blockInvalid7 size => some (.blockHeader, headerWord 7 size)
  | .ptDelta0 => some (.pretreeSymbol, 0)
  | .ptDelta1 => some (.pretreeSymbol, 1)
  | .ptDelta2 => some (.pretreeSymbol, 2)
  | .ptDelta3 => some (.pretreeSymbol, 3)
  | .ptDelta4 => some (.pretreeSymbol, 4)
  | .ptDelta5 => some (.pretreeSymbol, 5)
  | .ptDelta6 => some (.pretreeSymbol, 6)
  | .ptDelta7 => some (.pretreeSymbol, 7)
  | .ptDelta8 => some (.pretreeSymbol, 8)
  | .ptDelta9 => some (.pretreeSymbol, 9)
  | .ptDelta10 => some (.pretreeSymbol, 10)
  | .ptDelta11 => some (.pretreeSymbol, 11)
  | .ptDelta12 => some (.pretreeSymbol, 12)
  | .ptDelta13 => some (.pretreeSymbol, 13)
  | .ptDelta14 => some (.pretreeSymbol, 14)
  | .ptDelta15 => some (.pretreeSymbol, 15)
  | .ptDelta16 => some (.pretreeSymbol, 16)
  | .ptZeroRunShort => some (.pretreeSymbol, 17)
  | .ptZeroRunLong => some (.pretreeSymbol, 18)
  | .ptSameRun => some (.pretreeSymbol, 19)
  | .literal byte => some (.mainSymbol, byte.toNat)
  | .matchSlot0 lh => some (.mainSymbol, matchWord 0 lh)
  | .matchSlot1 lh => some (.mainSymbol, matchWord 1 lh)
  | .matchSlot2 lh => some (.mainSymbol, matchWord 2 lh)
  | .matchSlot3 lh => some (.mainSymbol, matchWord 3 lh)
  | .matchSlot4 lh => some (.mainSymbol, matchWord 4 lh)
  | .matchSlot5 lh => some (.mainSymbol, matchWord 5 lh)
  | .matchSlot6 lh => some (.mainSymbol, matchWord 6 lh)
  | .matchSlot7 lh => some (.mainSymbol, matchWord 7 lh)
  | .matchSlot8 lh => some (.mainSymbol, matchWord 8 lh)
  | .matchSlot9 lh => some (.mainSymbol, matchWord 9 lh)
  | .matchSlot10 lh => some (.mainSymbol, matchWord 10 lh)
  | .matchSlot11 lh => some (.mainSymbol, matchWord 11 lh)
  | .matchSlot12 lh => some (.mainSymbol, matchWord 12 lh)
  | .matchSlot13 lh => some (.mainSymbol, matchWord 13 lh)
  | .matchSlot14 lh => some (.mainSymbol, matchWord 14 lh)
  | .matchSlot15 lh => some (.mainSymbol, matchWord 15 lh)
  | .matchSlot16 lh => some (.mainSymbol, matchWord 16 lh)
  | .matchSlot17 lh => some (.mainSymbol, matchWord 17 lh)
  | .matchSlot18 lh => some (.mainSymbol, matchWord 18 lh)
  | .matchSlot19 lh => some (.mainSymbol, matchWord 19 lh)
  | .matchSlot20 lh => some (.mainSymbol, matchWord 20 lh)
  | .matchSlot21 lh => some (.mainSymbol, matchWord 21 lh)
  | .matchSlot22 lh => some (.mainSymbol, matchWord 22 lh)
  | .matchSlot23 lh => some (.mainSymbol, matchWord 23 lh)
  | .matchSlot24 lh => some (.mainSymbol, matchWord 24 lh)
  | .matchSlot25 lh => some (.mainSymbol, matchWord 25 lh)
  | .matchSlot26 lh => some (.mainSymbol, matchWord 26 lh)
  | .matchSlot27 lh => some (.mainSymbol, matchWord 27 lh)
  | .matchSlot28 lh => some (.mainSymbol, matchWord 28 lh)
  | .matchSlot29 lh => some (.mainSymbol, matchWord 29 lh)
  | .matchSlot30 lh => some (.mainSymbol, matchWord 30 lh)
  | .matchSlot31 lh => some (.mainSymbol, matchWord 31 lh)
  | .matchSlot32 lh => some (.mainSymbol, matchWord 32 lh)
  | .matchSlot33 lh => some (.mainSymbol, matchWord 33 lh)
  | .matchSlot34 lh => some (.mainSymbol, matchWord 34 lh)
  | .matchSlot35 lh => some (.mainSymbol, matchWord 35 lh)
  | .matchSlot36 lh => some (.mainSymbol, matchWord 36 lh)
  | .matchSlot37 lh => some (.mainSymbol, matchWord 37 lh)
  | .matchSlot38 lh => some (.mainSymbol, matchWord 38 lh)
  | .matchSlot39 lh => some (.mainSymbol, matchWord 39 lh)
  | .matchSlot40 lh => some (.mainSymbol, matchWord 40 lh)
  | .matchSlot41 lh => some (.mainSymbol, matchWord 41 lh)
  | .matchSlot42 lh => some (.mainSymbol, matchWord 42 lh)
  | .matchSlot43 lh => some (.mainSymbol, matchWord 43 lh)
  | .matchSlot44 lh => some (.mainSymbol, matchWord 44 lh)
  | .matchSlot45 lh => some (.mainSymbol, matchWord 45 lh)
  | .matchSlot46 lh => some (.mainSymbol, matchWord 46 lh)
  | .matchSlot47 lh => some (.mainSymbol, matchWord 47 lh)
  | .matchSlot48 lh => some (.mainSymbol, matchWord 48 lh)
  | .matchSlot49 lh => some (.mainSymbol, matchWord 49 lh)
  | .matchSlot50 lh => some (.mainSymbol, matchWord 50 lh)
  | .matchSlot51 lh => some (.mainSymbol, matchWord 51 lh)
  | .matchSlot52 lh => some (.mainSymbol, matchWord 52 lh)
  | .matchSlot53 lh => some (.mainSymbol, matchWord 53 lh)
  | .matchSlot54 lh => some (.mainSymbol, matchWord 54 lh)
  | .matchSlot55 lh => some (.mainSymbol, matchWord 55 lh)
  | .matchSlot56 lh => some (.mainSymbol, matchWord 56 lh)
  | .matchSlot57 lh => some (.mainSymbol, matchWord 57 lh)
  | .matchSlot58 lh => some (.mainSymbol, matchWord 58 lh)
  | .matchSlot59 lh => some (.mainSymbol, matchWord 59 lh)
  | .matchSlot60 lh => some (.mainSymbol, matchWord 60 lh)
  | .matchSlot61 lh => some (.mainSymbol, matchWord 61 lh)
  | .matchSlot62 lh => some (.mainSymbol, matchWord 62 lh)
  | .matchSlot63 lh => some (.mainSymbol, matchWord 63 lh)
  | .matchSlot64 lh => some (.mainSymbol, matchWord 64 lh)
  | .matchSlot65 lh => some (.mainSymbol, matchWord 65 lh)
  | .matchSlot66 lh => some (.mainSymbol, matchWord 66 lh)
  | .matchSlot67 lh => some (.mainSymbol, matchWord 67 lh)
  | .matchSlot68 lh => some (.mainSymbol, matchWord 68 lh)
  | .matchSlot69 lh => some (.mainSymbol, matchWord 69 lh)
  | .matchSlot70 lh => some (.mainSymbol, matchWord 70 lh)
  | .matchSlot71 lh => some (.mainSymbol, matchWord 71 lh)
  | .matchSlot72 lh => some (.mainSymbol, matchWord 72 lh)
  | .matchSlot73 lh => some (.mainSymbol, matchWord 73 lh)
  | .matchSlot74 lh => some (.mainSymbol, matchWord 74 lh)
  | .matchSlot75 lh => some (.mainSymbol, matchWord 75 lh)
  | .matchSlot76 lh => some (.mainSymbol, matchWord 76 lh)
  | .matchSlot77 lh => some (.mainSymbol, matchWord 77 lh)
  | .matchSlot78 lh => some (.mainSymbol, matchWord 78 lh)
  | .matchSlot79 lh => some (.mainSymbol, matchWord 79 lh)
  | .matchSlot80 lh => some (.mainSymbol, matchWord 80 lh)
  | .matchSlot81 lh => some (.mainSymbol, matchWord 81 lh)
  | .matchSlot82 lh => some (.mainSymbol, matchWord 82 lh)
  | .matchSlot83 lh => some (.mainSymbol, matchWord 83 lh)
  | .matchSlot84 lh => some (.mainSymbol, matchWord 84 lh)
  | .matchSlot85 lh => some (.mainSymbol, matchWord 85 lh)
  | .matchSlot86 lh => some (.mainSymbol, matchWord 86 lh)
  | .matchSlot87 lh => some (.mainSymbol, matchWord 87 lh)
  | .matchSlot88 lh => some (.mainSymbol, matchWord 88 lh)
  | .matchSlot89 lh => some (.mainSymbol, matchWord 89 lh)
  | .matchSlot90 lh => some (.mainSymbol, matchWord 90 lh)
  | .matchSlot91 lh => some (.mainSymbol, matchWord 91 lh)
  | .matchSlot92 lh => some (.mainSymbol, matchWord 92 lh)
  | .matchSlot93 lh => some (.mainSymbol, matchWord 93 lh)
  | .matchSlot94 lh => some (.mainSymbol, matchWord 94 lh)
  | .matchSlot95 lh => some (.mainSymbol, matchWord 95 lh)
  | .matchSlot96 lh => some (.mainSymbol, matchWord 96 lh)
  | .matchSlot97 lh => some (.mainSymbol, matchWord 97 lh)
  | .lenHdr0 => some (.lengthHeader, 0)
  | .lenHdr1 => some (.lengthHeader, 1)
  | .lenHdr2 => some (.lengthHeader, 2)
  | .lenHdr3 => some (.lengthHeader, 3)
  | .lenHdr4 => some (.lengthHeader, 4)
  | .lenHdr5 => some (.lengthHeader, 5)
  | .lenHdr6 => some (.lengthHeader, 6)
  | .lenHdr7 => some (.lengthHeader, 7)
  | .lengthSymbol t => some (.lengthSymbol, t.toNat)
  | .alignedSymbol a => some (.alignedSymbol, a.toNat)
  | .uncompressedRValues r0 r1 r2 => some (.rValues, rValuesWord r0 r1 r2)
  | .rawBytes => some (.rawBytes, 0)
  | .alignedLengths l => some (.alignedLengths, l.toNat)
  | .pretreeLengths l => some (.pretreeLengths, l.toNat)
  | .footerBitsField => some (.footerBits, 0)
  | .alignPadding => some (.alignPadding, 0)
  | .padByte => some (.padByte, 0)
  | .chunkTail => some (.chunkTail, 0)
  | .brLoad _ => none
  | .fetchWord => none
  | .readBits _ => none
  | .peekBits _ => none
  | .readU32le => none
  | .readU24be => none
  | .readByte => none
  | .align => none
  | .readBytes _ => none
  | .readBytesInto _ => none
  | .inputRemaining => none
  | .buildTable _ => none
  | .decodeSymbol _ => none
  | .readPretree => none
  | .updateRange _ _ _ => none
  | .readTables => none
  | .readAlignedTree => none
  | .readBlock => none
  | .readUncompressedBody => none
  | .decodeElement => none
  | .decodeUncompressed => none
  | .decodeCoded => none
  | .matchLength _ => none
  | .matchOffsetSlot0 => none
  | .matchOffsetSlot1 => none
  | .matchOffsetSlot2 => none
  | .matchOffsetVerbatim _ => none
  | .matchOffsetAligned _ => none
  | .matchOffsetAlignedShort _ => none
  | .pushOffset _ => none
  | .push _ => none
  | .copyFromSelf _ _ => none
  | .copyFromBitstream _ => none
  | .pastView _ => none
  | .construct _ => none
  | .reset => none
  | .decompressChunkInto _ _ => none
  | .decompressChunk _ _ => none

/-- The format a table row's pattern is read in, by the row's width: the width itself or, rounded to whole bytes, the most
numerous format of that many bytes. The table's formats overlap (a one-byte number may be an E8 flag, a pretree symbol, a length
header, a length symbol or an aligned symbol) and only the decoder's place in the stream tells them apart, which a bare number does
not carry (log 9). -/
def formatOfWidth (nbits : Nat) : Option Format :=
  match nbits with
  | 1 => some .chunkPrefix
  | 5 => some .pretreeSymbol
  | 8 => some .pretreeSymbol
  | 11 => some .mainSymbol
  | 16 => some .mainSymbol
  | 24 => some .alignedLengths
  | 27 => some .blockHeader
  | 32 => some .blockHeader
  | 80 => some .pretreeLengths
  | 96 => some .rValues
  | _ => none

/-- The instruction the decoder reads from a table row's pattern (log 9). -/
def decodeTableWord (nbits w : Nat) : Option Instr :=
  match formatOfWidth nbits with
  | none => none
  | some f =>
    match decode f w with
    | .ok i => some i
    | .error _ => none

/-- The `n` low bits of `v`, most significant first: a field as the stream carries it (R10 (b), R65). -/
def fieldBits : Nat → Nat → List Bool
  | 0, _ => []
  | n + 1, v => v.testBit n :: fieldBits n v

/-- The value of a bit string, first bit most significant (R10 (b)). -/
def bitsValue (bits : List Bool) : Nat := bits.foldl (fun acc b => 2 * acc + b.toNat) 0

/-- Cut a bit string into 16-bit groups, the last one padded with zeros, and store each group low byte first (R64, R113). The
first argument bounds the number of groups. -/
def packWords : Nat → List Bool → List Byte
  | 0, _ => []
  | n + 1, bits =>
    match bits with
    | [] => []
    | _ =>
      let word := BitVec.ofNat 16 (bitsValue ((bits ++ List.replicate 16 false).take 16))
      word.extractLsb' 0 8 :: word.extractLsb' 8 8 :: packWords n (bits.drop 16)

/-- The bytes of a stream listing's bits (R113). -/
def bytesOfBits (bits : List Bool) : List Byte := packWords bits.length bits

/-- A 32-bit value as two stream words, low half first: at a word boundary its four bytes in little-endian order (R66, R134). -/
def u32Bytes (v : BitVec 32) : List Byte :=
  [v.extractLsb' 0 8, v.extractLsb' 8 8, v.extractLsb' 16 8, v.extractLsb' 24 8]

end Sys2Proof
end

