-- ==== Sys2Proof/Machine/Sequence.lean ====
section
/-! DEFINITION. Sequence.lean: the stream cursor as program counter (R27): what is read next (`fetch`), where the command goes after an
instruction (`advance`), how a host command starts, and how a table row's word is put where the next step reads it. The transitions
are those of R200, in the order of R263, R201 and R188. -/

namespace Sys2Proof.Machine

/-- After the E8 bit and after each element (R263): the loop test, then the start of a block or the next element. -/
def State.loopPhase (s : State) : Phase :=
  if s.wantsMore then
    if s.blockExhausted then (if s.padOwed then .padByte else .header) else .element
  else .tail

/-- The first place of a chunk command (R263, R265). -/
def State.firstPhase (s : State) : Phase := if s.firstChunk then .e8 else s.loopPhase

/-- Where a block body begins (R201). -/
def bodyPhase : BlockKind → Phase
  | .uncompressed => .alignPad
  | .aligned => .alignedLens
  | .verbatim => .pretreeLens .literals
  | .none => .header

/-- Decode a pattern read from the stream. A main symbol outside the opcode table has no meaning in this core (R104, R111). -/
def decoded (f : Format) (w : Nat) : Op Instr :=
  match decode f w with
  | .ok i => Op.pure i
  | .error _ => Op.stuck .noSuchSymbol

/-- A pretree symbol, with the defensive arm of R186. -/
def decodedPretree (sym : Nat) : Op Instr :=
  if sym > 19 then Op.raise (.corruptTable .pretreeSymbol) else decoded .pretreeSymbol sym

/-- Read the next instruction from the stream, at the cursor, in the format the command's place gives (R91, R116). -/
def fetch : Op Instr := fun s =>
  match s.phase with
  | .idle => .stuck .idleFetch
  | .e8 => ((readBits 1).bind (decoded .chunkPrefix)) s
  | .padByte => .ok .padByte s
  | .header => (readHeader.bind fun h => decoded .blockHeader (headerWord h.1 h.2)) s
  | .alignPad => .ok .alignPadding s
  | .rValues => (readOffsetValues.bind fun v => decoded .rValues (rValuesWord v.1 v.2.1 v.2.2)) s
  | .alignedLens => (readAlignedField.bind fun l => decoded .alignedLengths l.toNat) s
  | .pretreeLens _ => (readPretreeField.bind fun l => decoded .pretreeLengths l.toNat) s
  | .pretreeSym _ => ((decodeSymbol .pre).bind decodedPretree) s
  | .element => if s.blk.kind = .uncompressed then .ok .rawBytes s else ((decodeSymbol .main).bind (decoded .mainSymbol)) s
  | .tail => .ok .chunkTail s

/-- Go to a place. -/
def goTo (p : Phase) : Op Unit := Op.modify fun s => s.setPhase p

/-- The end of a block body: the size judged, the block committed, its first element next (R201, R263). -/
def endBody : Op Unit := commitBlock.andThen (goTo .element)

/-- After the pretree lengths and after each pretree symbol: the next symbol while `i < end`, else the next part of R188. -/
def afterSymbol (stage : UpdateStage) : Op Unit := fun s =>
  if s.upd.pos < s.upd.stop then goTo (.pretreeSym stage) s
  else
    match stage with
    | .literals => goTo (.pretreeLens .matches) s
    | .matches => ((buildTable .main).andThen (goTo (.pretreeLens .lengths))) s
    | .lengths => ((buildTable .len).andThen endBody) s

/-- Where the command goes after an instruction (R200, R263, R201, R188). -/
def advance : Op Unit := fun s =>
  match s.phase with
  | .idle => .ok () s
  | .e8 => goTo s.loopPhase s
  | .padByte => goTo .header s
  | .header => goTo (bodyPhase s.hdr.kind) s
  | .alignPad => goTo .rValues s
  | .rValues => endBody s
  | .alignedLens => goTo (.pretreeLens .literals) s
  | .pretreeLens stage =>
    ((beginUpdate (stageTarget stage) (stageStart stage) (stageStop s.cfg.positionSlots stage)).andThen (afterSymbol stage)) s
  | .pretreeSym stage => afterSymbol stage s
  | .element => goTo s.loopPhase s
  | .tail => goTo .idle s

/-- Start a chunk command: the refusals and step 1 of R263; the rest is the steps that follow. -/
def beginChunk (data : List Byte) (outputSize : Nat) (wantBytes : Bool) (s : State) : State :=
  match refusal? data.length outputSize s with
  | some reason => s.setResult (.refused reason)
  | none =>
    let t := startChunk data outputSize wantBytes s
    t.setPhase t.firstPhase

/-- The idle core takes the first waiting command (R260), or stays idle (R276, R321). -/
def issue (s : State) : Outcome :=
  match s.host with
  | [] => .next s
  | .construct windowSize :: rest => execConstruct windowSize { s with host := rest }
  | .reset :: rest => execReset { s with host := rest }
  | .decompressChunkInto data outputSize :: rest => .next (beginChunk data outputSize false { s with host := rest })
  | .decompressChunk data outputSize :: rest => .next (beginChunk data (outputSizeArg outputSize) true { s with host := rest })

/-! ### Placing a table row's word (log 9) -/

/-- A table of `n` symbols with two codes of one bit, for `sym` and for the lowest other symbol. -/
def twoSymbolTable (n sym : Nat) : Table :=
  if sym = 0 then ⟨((List.replicate n 0).set 0 1).set 1 1, 1, [0, 1], true⟩
  else ⟨((List.replicate n 0).set 0 1).set sym 1, 1, [0, sym], true⟩

/-- The one-bit code of `sym` in that table, and zeros behind it. -/
def twoSymbolBits (sym : Nat) : List Bool := decide (sym ≠ 0) :: List.replicate 95 false

/-- A running chunk command whose input is `data`, at a place of it. -/
def State.running (s : State) (data : List Byte) (p : Phase) : State :=
  { s with
    constructed := true
    fault := ⟨false, 0, 0⟩
    br := Reader.load data
    cmd := ⟨Config.outputMax, 0, false⟩
    phase := p }

/-- The state in which the next step reads the pattern `w` in format `f`. -/
def State.placed (s : State) (f : Format) (w : Nat) : State :=
  match f with
  | .chunkPrefix => s.running (bytesOfBits (fieldBits 1 w ++ List.replicate 31 false)) .e8
  | .blockHeader => s.running (bytesOfBits (fieldBits 27 w ++ List.replicate 37 false)) .header
  | .pretreeSymbol =>
    { s.running (bytesOfBits (twoSymbolBits w)) (.pretreeSym .literals) with
      pre := twoSymbolTable nPre w
      upd := ⟨.mainLen, 0, 256⟩ }
  | .mainSymbol =>
    { s.running (bytesOfBits (twoSymbolBits w)) .element with
      blk := { s.blk with kind := .verbatim, size := 2 ^ 24 - 1, remaining := 2 ^ 24 - 1 }
      main := twoSymbolTable (nMain s.cfg.positionSlots) w
      len := twoSymbolTable nLen 0 }
  | .rValues =>
    s.running (u32Bytes (BitVec.ofNat 32 (w / 2 ^ 64)) ++ u32Bytes (BitVec.ofNat 32 (w / 2 ^ 32)) ++ u32Bytes (BitVec.ofNat 32 w)) .rValues
  | .alignedLengths => s.running (bytesOfBits (fieldBits 24 w ++ List.replicate 24 false)) .alignedLens
  | .pretreeLengths => s.running (bytesOfBits (fieldBits 80 w ++ List.replicate 16 false)) (.pretreeLens .literals)
  | .lengthHeader => s
  | .lengthSymbol => s
  | .alignedSymbol => s
  | .rawBytes => s
  | .footerBits => s
  | .alignPadding => s
  | .padByte => s
  | .chunkTail => s

end Sys2Proof.Machine
end

