-- ==== Sys2Proof/Machine/Step.lean ====
section
/-! DEFINITION. Step.lean: one step of the core: the idle core takes a host command, the running core reads one instruction from the
stream, executes it and goes to the next place. -/

namespace Sys2Proof.Machine

/-- What follows the fetch of an instruction. -/
def stepFetched : Res Instr → State → Outcome
  | .ok i t, _ =>
    match exec i t with
    | .next u => advance.run u
    | .fault r => .fault r
    | .refused r => .refused r
  | .raise k, s => .next (takeFault k s)
  | .stuck r, _ => .fault r

/-- One step. -/
def step (s : State) : Outcome := if s.phase = .idle then issue s else stepFetched (fetch s) s

/-- The state in which the next step reads a table row's word (log 9). -/
def State.withFetchWord (s : State) (nbits w : Nat) : State :=
  match formatOfWidth nbits with
  | some f => s.placed f w
  | none => s

end Sys2Proof.Machine
end

