-- ==== Sys2Proof/Safety.lean ====
section
/-! DEFINITION. Safety.lean: the terms the statements use: how an instruction ends, the unread stream, the Huffman tables that tile,
the linear form of the window, and `State.Inv`, the invariant every step keeps. -/

namespace Sys2Proof.Machine

/-! ### How an instruction ends (R12) -/

/-- The instruction completes: it answers a next state and has taken no fault (a fault draws a free value, log 5). -/
def Completes (i : Instr) (s t : State) : Prop := exec i s = .next t ∧ t.freeCtr = s.freeCtr

/-- The instruction faults: its next state is the fault entry of R313. -/
def Faults (i : Instr) (s : State) (k : FaultKind) : Prop := exec i s = .next (takeFault k s)

/-- Continue after an outcome: a next state goes on, a stop stays. -/
def Outcome.andThen (o : Outcome) (f : State → Outcome) : Outcome :=
  match o with
  | .next t => f t
  | .fault r => .fault r
  | .refused r => .refused r

/-! ### The stream (R64, R65, R25) -/

/-- The bits of `k` words from byte address `a` on, in stream order. -/
def Reader.wordBits (r : Reader) : Nat → Nat → List Bool
  | 0, _ => []
  | k + 1, a => fieldBits 16 (r.wordAt a).toNat ++ r.wordBits k (a + 2)

/-- The pending bits, next one first (R25). -/
def Reader.pending (r : Reader) : List Bool := fieldBits r.bitsLeft r.currentWord.toNat

/-- Every bit `readBits` can still deliver: the pending bits, then the whole words of the input from the cursor on (R27, R69). -/
def Reader.stream (r : Reader) : List Bool := r.pending ++ r.wordBits ((r.len - r.bytePos) / 2) r.bytePos

/-- What a tolerant peek sees: the pending bits, then one word whose missing bytes are 0x00 (R133 (b)). -/
def Reader.peekStream (r : Reader) : List Bool :=
  r.pending ++ fieldBits 16 ((r.byteOrZero (r.bytePos + 1) ++ r.byteOrZero r.bytePos : Word16).toNat)

/-- The value of 32 stream bits read low half first (R66 (a), R134). -/
def u32Value (bits : List Bool) : Word32 :=
  BitVec.ofNat 32 (bitsValue ((bits.drop 16).take 16) * 2 ^ 16 + bitsValue (bits.take 16))

/-- The reader is `n` stream bits further on and nothing else has changed (R27). -/
structure Reader.Advanced (r q : Reader) (n : Nat) : Prop where
  stream : q.stream = r.stream.drop n
  data : q.data = r.data
  len : q.len = r.len
  fetched : q.bytePos = r.bytePos + 2 * ((n - r.bitsLeft + 15) / 16)
  counted : q.bitsLeft + n = r.bitsLeft + 16 * ((n - r.bitsLeft + 15) / 16)

/-! ### Huffman tables (R160 to R163) -/

/-- The table entries the used symbols take in a table of `2^m` entries: `2^m` times the Kraft sum (R162). -/
def kraft (m : Nat) (lens : List Nat) : Nat := (lens.map fun L => if L = 0 then 0 else 2 ^ (m - L)).sum

/-- Symbol `x` is used and stands before symbol `sym` in (length, symbol) order (R163). -/
def codedBefore (lens : List Nat) (x sym : Nat) : Bool :=
  lenAt lens x != 0 && (decide (lenAt lens x < lenAt lens sym) || (lenAt lens x == lenAt lens sym && decide (x < sym)))

/-- The index of the first entry of `sym`: the entries of every symbol before it (R101, R163). -/
def codeStart (lens : List Nat) (sym : Nat) : Nat :=
  ((List.range lens.length).map fun x => if codedBefore lens x sym then 2 ^ (maxLen lens - lenAt lens x) else 0).sum

/-- The code of `sym`, a number of `KLEN[sym]` bits (R163). -/
def codeOf (lens : List Nat) (sym : Nat) : Nat := codeStart lens sym / 2 ^ (maxLen lens - lenAt lens sym)

/-- The code of `sym` as the stream carries it (R101). -/
def codeBits (lens : List Nat) (sym : Nat) : List Bool := fieldBits (lenAt lens sym) (codeOf lens sym)

/-- The lengths exactly tile the table (R162). -/
def Tiles (lens : List Nat) : Prop := 0 < maxLen lens ∧ kraft (maxLen lens) lens = 2 ^ maxLen lens

/-- The decode table of a length array: every index of a used symbol's span holds it, and nothing else is in the table (R160, R163). -/
structure Canonical (lens tab : List Nat) : Prop where
  size : tab.length = 2 ^ maxLen lens
  span : ∀ sym, lenAt lens sym ≠ 0 → ∀ q, q < 2 ^ (maxLen lens - lenAt lens sym) → tab[codeStart lens sym + q]? = some sym
  used : ∀ sym ∈ tab, lenAt lens sym ≠ 0

/-- Instruction `i` in state `s` builds the table of kind `k` from `lens`, everything else being as in `u`: it completes exactly on the
lengths that tile (or, for the length tree, are all zero), and faults on every other (R160 to R162). -/
structure BuildsTable (i : Instr) (s : State) (k : TableKind) (lens : List Nat) (u : State) : Prop where
  tiles : Tiles lens → ∃ tab, Canonical lens tab ∧ exec i s = .next (u.setTable k ⟨lens, maxLen lens, tab, true⟩)
  absent : maxLen lens = 0 → k = .len → exec i s = .next (u.setTable k ⟨lens, 0, [], false⟩)
  empty : maxLen lens = 0 → k ≠ .len → Faults i s (.corruptTable .empty)
  incomplete : 0 < maxLen lens → kraft (maxLen lens) lens < 2 ^ maxLen lens → Faults i s (.corruptTable .incomplete)
  oversubscribed : 0 < maxLen lens → 2 ^ maxLen lens < kraft (maxLen lens) lens → Faults i s (.corruptTable .oversubscribed)

/-- Every index of a present table holds a symbol of its kind (R37). -/
structure Table.Filled (t : Table) : Prop where
  size : t.tab.length = 2 ^ t.maxLength
  small : t.maxLength ≤ 16
  entry : ∀ sym ∈ t.tab, sym < t.lens.length

/-- Every entry is a used symbol whose code is no longer than the table's index (R37). -/
def Table.Settled (t : Table) : Prop := ∀ sym ∈ t.tab, 1 ≤ lenAt t.lens sym ∧ lenAt t.lens sym ≤ t.maxLength

/-! ### The window (R40, R247) -/

/-- The window's own invariant (R38, R39): its memory in canonical form and inside the window, and `WPOS` inside it. -/
structure Window.Wf (w : Window) (size : Nat) : Prop where
  canonical : memWf w.cells = true
  inside : memBelow size w.cells = true
  position : w.pos < size

/-- The byte `k` writes back in a linear buffer that zeros precede (R247). -/
def linearBack (out : List Byte) (k : Nat) : Byte := if k ≤ out.length then out.getD (out.length - k) 0 else 0

/-- The window holds the last `size` bytes of a linear buffer (R247). -/
def Window.Holds (w : Window) (size : Nat) (out : List Byte) : Prop :=
  ∀ k, 1 ≤ k → k ≤ size → w.history size k = linearBack out k

/-- The naive copy over a linear buffer (R247): each byte appended is the one `offset` back. -/
def linearCopy (out : List Byte) (offset : Nat) : Nat → List Byte
  | 0 => out
  | n + 1 => linearCopy (out ++ [linearBack out offset]) offset n

/-- The last `n` bytes of a linear buffer that zeros precede, oldest first (R247). -/
def linearView (out : List Byte) (n : Nat) : List Byte := (List.range n).map fun k => linearBack out (n - k)

/-- The addresses of the next `n` window writes (R240). -/
def Window.writes (w : Window) (size n a : Nat) : Prop := ∃ j, j < n ∧ a = (w.pos + j) % size

/-! ### What the running command reads next (R91, R116) -/

/-- At the command's place the pattern `w` in format `f` is read, and the state after reading it is `t`. -/
def Reads (s : State) (f : Format) (w : Nat) (t : State) : Prop :=
  match s.phase, f with
  | .e8, .chunkPrefix => readBits 1 s = .ok w t
  | .header, .blockHeader => ∃ tag size, readHeader s = .ok (tag, size) t ∧ w = headerWord tag size
  | .rValues, .rValues => ∃ r0 r1 r2, readOffsetValues s = .ok (r0, r1, r2) t ∧ w = rValuesWord r0 r1 r2
  | .alignedLens, .alignedLengths => ∃ l, readAlignedField s = .ok l t ∧ w = l.toNat
  | .pretreeLens _, .pretreeLengths => ∃ l, readPretreeField s = .ok l t ∧ w = l.toNat
  | .pretreeSym _, .pretreeSymbol => decodeSymbol .pre s = .ok w t
  | .element, .mainSymbol => s.blk.kind ≠ .uncompressed ∧ decodeSymbol .main s = .ok w t
  | .element, .rawBytes => s.blk.kind = .uncompressed ∧ w = 0 ∧ t = s
  | .alignPad, .alignPadding => w = 0 ∧ t = s
  | .padByte, .padByte => w = 0 ∧ t = s
  | .tail, .chunkTail => w = 0 ∧ t = s
  | _, _ => False

/-! ### One pass of a range update, and the passes of a whole one (R181) -/

/-- One pass of R181: a pretree symbol decoded and done, while `i < end`. -/
def PretreePass (s t : State) : Prop :=
  s.upd.pos < s.upd.stop ∧ ∃ sym u i, decodeSymbol .pre s = .ok sym u ∧ pretreeCtors[sym]? = some i ∧ Completes i u t

/-- The passes from `s` until `i = end`. -/
inductive PretreePasses : State → State → Prop
  | done {s : State} (h : ¬s.upd.pos < s.upd.stop) : PretreePasses s s
  | pass {s t u : State} (h : PretreePass s t) (rest : PretreePasses t u) : PretreePasses s u

/-! ### A range update that reaches given lengths (R181, R182) -/

/-- A pretree with a code for every symbol: 12 of 4 bits, 8 of 5 bits. -/
def fullPretree : List Nat := List.replicate 12 4 ++ List.replicate 8 5

/-- The bits of a range update that turns the lengths `old` into `new`: that pretree, then one delta symbol for each length (R99, R182). -/
def updateBits (old new : List Nat) : List Bool :=
  fullPretree.flatMap (fieldBits 4) ++ (List.zipWith (fun o n => codeBits fullPretree ((17 + o - n) % 17)) old new).flatten

/-! ### What a match reads (R210 to R217) -/

/-- The match length `n` for a length header, and the state after reading it (R210). -/
def LengthReads (lh : BitVec 3) (s : State) (n : Nat) (u : State) : Prop :=
  (lh.toNat < 7 ∧ n = lh.toNat + 2 ∧ u = s) ∨ (lh.toNat = 7 ∧ ∃ t, decodeSymbol .len s = .ok t u ∧ n = t + 9)

/-- The match offset for a position slot, and the state after reading it and updating the cache (R211 to R217). -/
def OffsetReads (slot : Nat) (s : State) (offset : Word32) (u : State) : Prop :=
  (slot = 0 ∧ offset = s.rep.r0 ∧ u = s) ∨
  (slot = 1 ∧ offset = s.rep.r1 ∧ u = s.setRep ⟨s.rep.r1, s.rep.r0, s.rep.r2⟩) ∨
  (slot = 2 ∧ offset = s.rep.r2 ∧ u = s.setRep ⟨s.rep.r2, s.rep.r1, s.rep.r0⟩) ∨
  (3 ≤ slot ∧ ¬(s.blk.kind = .aligned ∧ 3 ≤ footerBits slot) ∧
    ∃ v t, readBits (footerBits slot) s = .ok v t ∧ offset = BitVec.ofNat 32 (basePosition slot + v - 2) ∧
      u = t.setRep ⟨offset, s.rep.r0, s.rep.r1⟩) ∨
  (3 ≤ slot ∧ (s.blk.kind = .aligned ∧ 3 ≤ footerBits slot) ∧
    ∃ v t a t', readBits (footerBits slot - 3) s = .ok v t ∧ decodeSymbol .align t = .ok a t' ∧
      offset = BitVec.ofNat 32 (basePosition slot + 8 * v + a - 2) ∧ u = t'.setRep ⟨offset, s.rep.r0, s.rep.r1⟩)

/-! ### A chunk that stores its bytes uncompressed (R91, R93, R95) -/

/-- The chunk of one Uncompressed block: the E8 flag on a first chunk, the header, the padding, the three offsets, the raw bytes; the
pad byte owed by an earlier block comes first (R117). -/
def storedChunk (first : Bool) (pad : List Byte) (r0 r1 r2 : Word32) (payload : List Byte) : List Byte :=
  pad ++ bytesOfBits ((if first then [false] else []) ++ fieldBits 27 (headerWord 3 (BitVec.ofNat 24 payload.length))) ++
    u32Bytes r0 ++ u32Bytes r1 ++ u32Bytes r2 ++ payload

/-! ### The invariant -/

/-- `N_K` (R7). -/
def symbolCount (positionSlots : Nat) : TableKind → Nat
  | .main => nMain positionSlots
  | .len => nLen
  | .align => nAlign
  | .pre => nPre

/-- The largest code length a kind can have (R166). -/
def longestCode : TableKind → Nat
  | .main => 16
  | .len => 16
  | .align => 7
  | .pre => 15

/-- Constructed and not FAULTED: every register has its specified meaning (R44, R50). -/
def State.Live (s : State) : Prop := s.constructed = true ∧ s.fault.flag = false

/-- The lengths of a kind may have changed since its table was built (R347). -/
def Phase.updates : Phase → TableKind → Bool
  | .pretreeSym .literals, .main => true
  | .pretreeLens .matches, .main => true
  | .pretreeSym .matches, .main => true
  | .pretreeSym .lengths, .len => true
  | _, _ => false

/-- The kind of the block whose body is being read (R201). -/
def Phase.bodyFits : Phase → BlockKind → Prop
  | .alignPad, kind => kind = .uncompressed
  | .rValues, kind => kind = .uncompressed
  | .alignedLens, kind => kind = .aligned
  | .pretreeLens _, kind => kind = .verbatim ∨ kind = .aligned
  | .pretreeSym _, kind => kind = .verbatim ∨ kind = .aligned
  | _, _ => True

/-- The running command's place fits the other registers. -/
def State.PhaseFits (s : State) : Prop :=
  match s.phase with
  | .idle => s.decodedChunks = 0 → s.blk.kind = .none
  | .e8 => s.blk.kind = .none
  | .padByte => s.br.bitsLeft = 0
  | .rValues => s.br.bitsLeft = 0
  | .pretreeSym stage => s.upd.target = stageTarget stage ∧ s.upd.stop = stageStop s.cfg.positionSlots stage ∧ s.upd.pos < s.upd.stop
  | .element => 0 < s.blk.remaining ∧ (s.blk.kind = .uncompressed → s.br.bitsLeft = 0)
  | _ => True

/-- The invariant: every register in its range (R46, R5, R31), the window canonical (R38, R39), and, while the core is live, every present
table filled and in step with its lengths outside an update (R37, R347), the cursor inside the input (R23), and the byte reads made
with no bits pending (R346). -/
structure State.Inv (s : State) : Prop where
  legal : (s.cfg.windowSize, s.cfg.positionSlots) ∈ positionSlotsTable
  window : s.win.Wf s.cfg.windowSize
  lens : ∀ k, (s.table k).lens.length = symbolCount s.cfg.positionSlots k ∧ ∀ L ∈ (s.table k).lens, L ≤ longestCode k
  bits : s.br.bitsLeft ≤ 16
  cursor : s.br.bytePos < 2 ^ 32 ∧ s.br.len < 2 ^ 32
  block : s.blk.remaining ≤ s.blk.size ∧ s.blk.size < 2 ^ 24
  header : s.hdr.size < 2 ^ 24
  chunks : s.decodedChunks < 2 ^ 32
  rest : ¬s.Live → s.phase = .idle
  output : s.cmd.outputSize ≤ Config.outputMax
  input : s.phase ≠ .idle → s.br.data.length = s.br.len ∧ s.br.len ≤ Config.inMaxBytes ∧
    s.br.bytePos ≤ s.br.len + (if s.phase = .rValues then 2 else 0)
  filled : s.Live → ∀ k, (s.table k).present = true → (s.table k).Filled
  settled : s.Live → ∀ k, (s.table k).present = true → s.phase.updates k = false → (s.table k).Settled
  owed : s.Live → s.blk.kind = .none → s.blk.remaining = 0
  body : s.Live → s.phase.bodyFits s.hdr.kind
  place : s.Live → s.PhaseFits

end Sys2Proof.Machine
end

