-- ==== Sys2Proof/Certificates/Slice0/Obligations.lean ====
section
/-! DEFINITION. Obligations.lean: the statements for the provers, in the order of OBLIGATIONS.json. The registers `elt`, `upd`, `hdr`, `ret`
hold the local variables and the returned value of the spec's pseudocode, `phase`, `result`, `host` and `freeCtr` are the model's own (log 3, 5, 7,
8, 10): a clause about one of them says where the model keeps what a rule computes, not a rule. -/

open Sys2Proof Sys2Proof.Machine

/-! ### Encoding -/

/-- Every well-formed instruction that has a pattern decodes back from it, with every operand (R92 to R106, R116). -/
def Obligations.DecodeEncodeRoundTrip : Prop :=
  ∀ (i : Instr) (f : Format) (w : Nat), i.wellFormed = true → encode i = some (f, w) → decode f w = .ok i

/-- Every pattern that decodes is the pattern of the instruction it gives, and that instruction is well formed (R116). -/
def Obligations.EncodeDecodeRoundTrip : Prop :=
  ∀ (f : Format) (w : Nat) (i : Instr), decode f w = .ok i → i.wellFormed = true ∧ encode i = some (f, w)

/-- The patterns refused are exactly those too wide for their format and the symbol numbers no table has (R111). -/
def Obligations.ReservedPatternsRefused : Prop :=
  ∀ (f : Format) (w : Nat), (∃ r, decode f w = .error r) ↔
    (2 ^ f.width ≤ w ∨ (f = .pretreeSymbol ∧ 20 ≤ w) ∨ (f = .mainSymbol ∧ 1040 ≤ w) ∨ (f = .lengthSymbol ∧ 249 ≤ w))

/-- Words written out from the encodings of R92 to R103 decode to what they stand for. -/
def Obligations.SampleWordsDecode : Prop :=
  decode .chunkPrefix 0b1 = .ok .e8Set ∧
  decode .blockHeader 0b001000000000000000000001000 = .ok (.blockVerbatim 8) ∧
  decode .blockHeader 0b111000000000000000000000000 = .ok (.blockInvalid7 0) ∧
  decode .pretreeSymbol 0b10011 = .ok .ptSameRun ∧
  decode .mainSymbol 0b00001100001 = .ok (.literal 0x61) ∧
  decode .mainSymbol 0b00100100010 = .ok (.matchSlot4 2) ∧
  decode .lengthHeader 0b111 = .ok .lenHdr7 ∧
  decode .alignedLengths 0b010010010010000000000000 = .ok (.alignedLengths 0x492000)

/-! ### Steps -/

/-- A running command reads the pattern its place calls for, and the step is the decoded instruction's `exec`, then the move to the next
place (R27, R91, R116). -/
def Obligations.StepRunsDecodedInstruction : Prop :=
  ∀ (s t : State) (f : Format) (w : Nat) (i : Instr), Reads s f w t → decode f w = .ok i →
    step s = Outcome.andThen (exec i t) advance.run

/-- Where the input does not hold the pattern the command's place calls for, the step faults: `OutOfBounds(WordFetch)` for the E8 bit, a
header, the three offsets, the aligned and the pretree lengths, and for a pretree or main symbol whose code (the one a peek padded with zeros
finds) is longer than the bits left; `OutOfBounds(ByteRead)` for the pad byte, `InternalInvariant` for raw bytes, with no byte left (R133, R139,
R164, R208, R267, R301, R308). A row's trailing fields are no part of its pattern. -/
def Obligations.TruncatedStreamFaults : Prop :=
  ∀ s : State,
    (((s.phase = .e8 ∧ s.br.stream.length < 1) ∨ (s.phase = .header ∧ s.br.stream.length < 27) ∨
      (s.phase = .rValues ∧ s.br.stream.length < 96) ∨ (s.phase = .alignedLens ∧ s.br.stream.length < 24) ∨
      (∃ stage, s.phase = .pretreeLens stage ∧ s.br.stream.length < 80)) →
    step s = .next (takeFault (.outOfBounds .wordFetch) s)) ∧
    (∀ k sym, ((∃ stage, s.phase = .pretreeSym stage) ∧ k = .pre ∨ s.phase = .element ∧ s.blk.kind ≠ .uncompressed ∧ k = .main) →
      (s.table k).present = true → (s.table k).maxLength ≤ 16 →
      (s.table k).tab[bitsValue (s.br.peekStream.take (s.table k).maxLength)]? = some sym →
      s.br.stream.length < lenAt (s.table k).lens sym → step s = .next (takeFault (.outOfBounds .wordFetch) s)) ∧
    (s.phase = .padByte → s.br.len < s.br.bytePos + 1 → step s = .next (takeFault (.outOfBounds .byteRead) s)) ∧
    (s.phase = .element → s.blk.kind = .uncompressed → s.br.len ≤ s.br.bytePos → step s = .next (takeFault .internalInvariant s))

/-- The idle core waits; it runs the first command the host has issued; a chunk command is refused at once or starts on a fresh reader,
with the E8 bit first exactly on a first chunk (R260, R263 to R267, R321; the queue of commands is the model's own, log 8). -/
def Obligations.IdleCoreTakesHostCommands : Prop :=
  ∀ s : State, s.phase = .idle →
    (s.host = [] → step s = .next s) ∧
    (∀ w rest, s.host = .construct w :: rest → step s = exec (.construct w) { s with host := rest }) ∧
    (∀ rest, s.host = .reset :: rest → step s = exec .reset { s with host := rest }) ∧
    ∀ c rest data n, s.host = c :: rest →
      (c = .decompressChunkInto data n ∨ ∃ m, c = .decompressChunk data m ∧ n = outputSizeArg m) →
      (∀ r, refusal? data.length n s = some r → step s = .next (State.setResult { s with host := rest } (.refused r))) ∧
      (refusal? data.length n s = none →
        ∃ t, step s = .next t ∧ t.br = Reader.load data ∧ t.cmd.outputSize = n ∧ t.cmd.produced = 0 ∧
          (s.decodedChunks = 0 → t.phase = .e8) ∧
          (s.decodedChunks ≠ 0 → 0 < n → s.blk.remaining = 0 → ¬(s.blk.kind = .uncompressed ∧ s.blk.size % 2 = 1) → t.phase = .header) ∧
          (s.decodedChunks ≠ 0 → 0 < n → s.blk.remaining = 0 → s.blk.kind = .uncompressed ∧ s.blk.size % 2 = 1 → t.phase = .padByte) ∧
          (s.decodedChunks ≠ 0 → 0 < n → s.blk.remaining ≠ 0 → t.phase = .element) ∧
          (s.decodedChunks ≠ 0 → n = 0 → t.phase = .tail))

/-- Stepping an idle core through the chunk command that waits comes to the very state, fault or stop that the command's own meaning, the
whole of R263, gives: the steps refine the command (R200, R201, R188, R263; what one step does is the model's own, log 8 and log 10). -/
def Obligations.StepsRunTheChunkCommand : Prop :=
  ∀ (s : State) (c : HostCommand) (rest : List HostCommand), s.phase = .idle → s.host = c :: rest →
    ((∃ data n, c = .decompressChunkInto data n) ∨ ∃ data n, c = .decompressChunk data n) →
    ∃ k, Host.Core.run Sys2Proof.core k s = exec c.toInstr { s with host := rest }

/-- From `State.reset`, a table row's word that decodes is placed where the next step reads it: the step fetches and runs exactly it
(the placing is the model's own, log 9). -/
def Obligations.PlacedWordIsFetched : Prop :=
  ∀ (nbits w : Nat) (i : Instr), decodeTableWord nbits w = some i →
    ∃ t, fetch (State.reset.withFetchWord nbits w) = .ok i t ∧
      step (State.reset.withFetchWord nbits w) = Outcome.andThen (exec i t) advance.run

/-! ### Whole-machine rules -/

/-- Every step keeps the invariant (R31, R37, R38, R39, R46, R346, R347). -/
def Obligations.StepKeepsInvariant : Prop := ∀ s t : State, s.Inv → step s = .next t → t.Inv

/-- The state after `construct` with each legal window size meets the invariant, `State.reset` among them (R49). -/
def Obligations.ResetMeetsInvariant : Prop :=
  State.reset.Inv ∧ ∀ entry ∈ positionSlotsTable, (State.resetOf entry.1).Inv

/-- From a state that meets the invariant every step answers a next state: no stop of the model is reachable (R12, R37, R186). -/
def Obligations.InvariantStepsAnswer : Prop := ∀ s : State, s.Inv → ∃ t, step s = .next t

/-- No instruction but `construct` changes the configuration, `CONSTRUCTED` or the host's waiting commands (R41, R50). -/
def Obligations.ConfigurationIsFixed : Prop :=
  ∀ (i : Instr) (s t : State), exec i s = .next t → (∀ w, i ≠ .construct w) →
    t.cfg = s.cfg ∧ t.constructed = s.constructed ∧ t.host = s.host

/-- Every instruction but `construct` and `reset` either leaves `FAULT.*` alone or takes a fault entry, whatever it had done before the
fault (R44, R313; what the entry leaves in the other registers is free, log 5). -/
def Obligations.FaultStatusOnlyFromFaultEntry : Prop :=
  ∀ (i : Instr) (s t : State), exec i s = .next t → (∀ w, i ≠ .construct w) → i ≠ .reset →
    (t.fault = s.fault ∧ t.freeCtr = s.freeCtr) ∨ ∃ k, t = takeFault k s

/-- The idle FAULTED core stays FAULTED until the host issues `reset` or `construct`: it waits, or refuses a chunk command and changes
nothing but the result (R275, R310, R314; the waiting commands and the result register are the model's own, log 7 and log 8). -/
def Obligations.FaultedUntilReset : Prop :=
  ∀ s : State, s.phase = .idle → s.fault.flag = true → (∀ rest, s.host ≠ .reset :: rest) → (∀ w rest, s.host ≠ .construct w :: rest) →
    step s = .next s ∨
      ∃ c rest r, s.host = c :: rest ∧ step s = .next (State.setResult { s with host := rest } (.refused r)) ∧
        r = if s.constructed then .faulted else .notConstructed

/-- Only a completed chunk changes the output and the counters: no other instruction that completes writes `OUT`, `chunkOffset`,
`decodedChunks` or the host's result (R42, R43, R45, R263, R317). -/
def Obligations.OutputOnlyAtCompletion : Prop :=
  ∀ (i : Instr) (s t : State), Completes i s t → i ≠ .chunkTail → (∀ w, i ≠ .construct w) → i ≠ .reset →
    (∀ data n, i ≠ .decompressChunkInto data n) → (∀ data n, i ≠ .decompressChunk data n) →
    t.out = s.out ∧ t.chunkOffset = s.chunkOffset ∧ t.decodedChunks = s.decodedChunks ∧ t.result = s.result

/-! ### BitReader -/

/-- `readBits(n)` returns the next `n` stream bits, first one most significant, and moves only the cursor, by exactly `n` bits; with fewer
bits left it faults; `n > 32` is outside its domain (R132, R65, R139; the refusal of `n > 32` is log 15). -/
def Obligations.ReadBitsTakesNextBits : Prop :=
  ∀ (n : Nat) (s : State),
    (n ≤ 32 → n ≤ s.br.stream.length →
      ∃ q, s.br.Advanced q n ∧ exec (.readBits n) s = .next ((s.setBr q).setRet (.num (bitsValue (s.br.stream.take n))))) ∧
    (n ≤ 32 → s.br.stream.length < n → Faults (.readBits n) s (.outOfBounds .wordFetch)) ∧
    (32 < n → exec (.readBits n) s = .refused .outsideDomain)

/-- `readBits(a)` then `readBits(b)` returns what one `readBits(a + b)` would, split, and leaves the same reader (R132 (a)). -/
def Obligations.ReadBitsSplits : Prop :=
  ∀ (a b : Nat) (s t u : State), a + b ≤ 32 → Completes (.readBits a) s t → Completes (.readBits b) t u →
    ∃ x y, t.ret = .num x ∧ u.ret = .num y ∧ y < 2 ^ b ∧ exec (.readBits (a + b)) s = .next (u.setRet (.num (x * 2 ^ b + y)))

/-- `peekBits(n)` changes nothing but the returned value: the next `n` stream bits where they exist; past the end zeros for `n ≤ 16`, a
fault above (R133); `n > 32` is outside its domain (the refusal is log 15). -/
def Obligations.PeekBitsChangesNothing : Prop :=
  ∀ (n : Nat) (s : State),
    (n ≤ 32 → n ≤ s.br.stream.length → exec (.peekBits n) s = .next (s.setRet (.num (bitsValue (s.br.stream.take n))))) ∧
    (n ≤ 16 → exec (.peekBits n) s = .next (s.setRet (.num (bitsValue (s.br.peekStream.take n))))) ∧
    (16 < n → n ≤ 32 → s.br.stream.length < n → Faults (.peekBits n) s (.outOfBounds .peek)) ∧
    (32 < n → exec (.peekBits n) s = .refused .outsideDomain)

/-- `readU32le` is the next 32 bits read low half first, `readU24be` the next 24 bits; too few bits fault (R66, R134, R135). -/
def Obligations.MultiWordReads : Prop :=
  ∀ s : State,
    (32 ≤ s.br.stream.length →
      ∃ q, s.br.Advanced q 32 ∧ exec .readU32le s = .next ((s.setBr q).setRet (.num
        (bitsValue ((s.br.stream.drop 16).take 16) * 2 ^ 16 + bitsValue (s.br.stream.take 16))))) ∧
    (s.br.stream.length < 32 → Faults .readU32le s (.outOfBounds .wordFetch)) ∧
    (24 ≤ s.br.stream.length →
      ∃ q, s.br.Advanced q 24 ∧ exec .readU24be s = .next ((s.setBr q).setRet (.num (bitsValue (s.br.stream.take 24))))) ∧
    (s.br.stream.length < 24 → Faults .readU24be s (.outOfBounds .wordFetch))

/-- A word fetch takes two bytes, low byte first, at any address, and faults when one is missing; `BR.load` makes a fresh reader (R64, R68,
R69, R130, R131). -/
def Obligations.FetchWordAndLoad : Prop :=
  ∀ (s : State) (data : List Byte),
    (s.br.bytePos + 2 ≤ s.br.len → exec .fetchWord s = .next (s.setBr
      { s.br with
        currentWord := s.br.data.getD (s.br.bytePos + 1) 0 ++ s.br.data.getD s.br.bytePos 0
        bitsLeft := 16
        bytePos := s.br.bytePos + 2 })) ∧
    (s.br.len < s.br.bytePos + 2 → Faults .fetchWord s (.outOfBounds .wordFetch)) ∧
    ∃ t, exec (.brLoad data) s = .next t ∧ t = s.setBr ⟨data, data.length, 0, 0, 0⟩ ∧ t.br.stream.length = 16 * (data.length / 2)

/-- `readByte`, `readBytes` and the pad byte take bytes in address order and neither see nor change pending bits; `inputRemaining` counts
the bytes not yet taken (R67, R117, R136, R138, R140). -/
def Obligations.ByteReadsIgnorePendingBits : Prop :=
  ∀ (n : Nat) (s : State),
    (s.br.bytePos + 1 ≤ s.br.len →
      exec .readByte s = .next ((s.setBr { s.br with bytePos := s.br.bytePos + 1 }).setRet (.num (s.br.data.getD s.br.bytePos 0).toNat)) ∧
      exec .padByte s = .next (s.setBr { s.br with bytePos := s.br.bytePos + 1 })) ∧
    (s.br.len < s.br.bytePos + 1 → Faults .readByte s (.outOfBounds .byteRead) ∧ Faults .padByte s (.outOfBounds .byteRead)) ∧
    (s.br.bytePos + n ≤ s.br.len →
      ∃ bs : List Byte, bs.length = n ∧ (∀ k, k < n → bs[k]? = some (s.br.data.getD (s.br.bytePos + k) 0)) ∧
        exec (.readBytes n) s = .next ((s.setBr { s.br with bytePos := s.br.bytePos + n }).setRet (.bytes bs))) ∧
    (s.br.len < s.br.bytePos + n → Faults (.readBytes n) s (.outOfBounds .bytesRead)) ∧
    ∃ m, exec .inputRemaining s = .next (s.setRet (.num m)) ∧ (s.br.bytePos ≤ s.br.len → s.br.bytePos + m = s.br.len) ∧
      (s.br.len < s.br.bytePos → m = 0)

/-- `align`, and the padding of an Uncompressed block, drops the pending bits, or skips one whole word unread when none is pending, and
cannot fault (R95, R137). -/
def Obligations.AlignDropsToWordBoundary : Prop :=
  ∀ (s : State) (i : Instr), i = .align ∨ i = .alignPadding →
    ∃ q, exec i s = .next (s.setBr q) ∧ q.data = s.br.data ∧ q.len = s.br.len ∧ q.currentWord = s.br.currentWord ∧ q.bitsLeft = 0 ∧
      (s.br.bitsLeft = 0 → q.bytePos = s.br.bytePos + 2) ∧ (s.br.bitsLeft ≠ 0 → q.bytePos = s.br.bytePos)

/-! ### Huffman tables -/

/-- `buildTable(K)` completes exactly on the lengths that tile the table, or all-zero lengths of the length tree, which is then absent;
every other array faults with its own sub-kind; nothing but the table changes (R160 to R162). -/
def Obligations.BuildTableExactlyWhenTiled : Prop :=
  ∀ (k : TableKind) (s : State), BuildsTable (.buildTable k) s k (s.table k).lens s

/-- Codes are given out in increasing length, then ascending symbol order: a symbol's span begins at a multiple of its size and holds only
it, the first code is all zeros, each next one is the code before plus one, lengthened, and the last is all ones (R163). -/
def Obligations.CanonicalCodes : Prop :=
  ∀ (lens : List Nat) (k : TableKind) (t u : Table), t.lens = lens → Tiles lens → t.build k = .ok u →
    (∀ x, lenAt lens x ≠ 0 → 2 ^ (maxLen lens - lenAt lens x) ∣ codeStart lens x ∧
      ∀ q, q < 2 ^ (maxLen lens - lenAt lens x) → u.tab[codeStart lens x + q]? = some x) ∧
    (∀ x, lenAt lens x ≠ 0 → (∀ z, codedBefore lens z x = false) → codeOf lens x = 0) ∧
    (∀ x y, lenAt lens x ≠ 0 → lenAt lens y ≠ 0 → codedBefore lens x y = true →
      (∀ z, ¬(codedBefore lens x z = true ∧ lenAt lens z ≠ 0 ∧ codedBefore lens z y = true)) →
      codeOf lens y = (codeOf lens x + 1) * 2 ^ (lenAt lens y - lenAt lens x)) ∧
    (∀ x, lenAt lens x ≠ 0 → (∀ z, lenAt lens z ≠ 0 → z ≠ x → codedBefore lens z x = true) →
      codeOf lens x + 1 = 2 ^ lenAt lens x)

/-- Every code of a built table decodes to its symbol and consumes exactly its length, whatever bits follow, including none (R101, R163,
R164, R167; the source's round-trip property S5). -/
def Obligations.EveryCodeDecodes : Prop :=
  ∀ (k : TableKind) (s : State) (sym : Nat), (s.table k).build k = .ok (s.table k) → (s.table k).present = true →
    (s.table k).maxLength ≤ 16 → lenAt (s.table k).lens sym ≠ 0 →
    s.br.stream.take (lenAt (s.table k).lens sym) = codeBits (s.table k).lens sym →
    ∃ q, s.br.Advanced q (lenAt (s.table k).lens sym) ∧ exec (.decodeSymbol k) s = .next ((s.setBr q).setRet (.num sym))

/-- `decodeSymbol(K)` on a filled table gives a symbol of the table and consumes its true length, or faults when those bits do not exist;
on an absent table it faults before any bit is looked at (R164, R165, R167). -/
def Obligations.DecodeSymbolConsumesTrueLength : Prop :=
  ∀ (k : TableKind) (s : State),
    ((s.table k).present = true → (s.table k).Filled →
      ∃ sym ∈ (s.table k).tab,
        (lenAt (s.table k).lens sym ≤ s.br.stream.length → ∃ q, s.br.Advanced q (lenAt (s.table k).lens sym) ∧
          exec (.decodeSymbol k) s = .next ((s.setBr q).setRet (.num sym))) ∧
        (s.br.stream.length < lenAt (s.table k).lens sym → Faults (.decodeSymbol k) s (.outOfBounds .wordFetch))) ∧
    ((s.table k).present = false → Faults (.decodeSymbol k) s (.corruptTable .absentLengthTree))

/-! ### Pretree -/

/-- Pretree symbols 0 to 16: the length at the current position becomes `(17 + old - symbol) mod 17`, the position moves on by 1, nothing
else changes (R182). -/
def Obligations.PretreeDeltaSymbols : Prop :=
  ∀ (s : State) (c : Nat) (i : Instr), c ≤ 16 → pretreeCtors[c]? = some i → s.upd.pos < s.upd.stop → s.upd.stop ≤ s.updLens.length →
    ∃ lens, exec i s = .next ((s.setUpdLens lens).setUpd { s.upd with pos := s.upd.pos + 1 }) ∧ lens.length = s.updLens.length ∧
      ∀ j, lenAt lens j = if j = s.upd.pos then (17 + lenAt s.updLens s.upd.pos - c) % 17 else lenAt s.updLens j

/-- Pretree symbols 17 and 18: `z` of 4 (5) bits, `z + 4` (`z + 20`) lengths become 0 whatever they were, the position moves on by as many,
nothing else but the cursor changes (R183, R184). -/
def Obligations.PretreeZeroRuns : Prop :=
  ∀ (s : State) (bits base : Nat) (i : Instr), (bits = 4 ∧ base = 4 ∧ i = .ptZeroRunShort) ∨ (bits = 5 ∧ base = 20 ∧ i = .ptZeroRunLong) →
    s.upd.pos < s.upd.stop → s.upd.stop ≤ s.updLens.length → bits ≤ s.br.stream.length →
    s.upd.pos + (bitsValue (s.br.stream.take bits) + base) ≤ s.upd.stop →
    (∃ q lens, s.br.Advanced q bits ∧
      exec i s = .next (((s.setBr q).setUpdLens lens).setUpd { s.upd with pos := s.upd.pos + (bitsValue (s.br.stream.take bits) + base) }) ∧
      lens.length = s.updLens.length ∧
      ∀ j, lenAt lens j =
        if s.upd.pos ≤ j ∧ j < s.upd.pos + (bitsValue (s.br.stream.take bits) + base) then 0 else lenAt s.updLens j) ∧
    (bits = 4 → 4 ≤ bitsValue (s.br.stream.take bits) + base ∧ bitsValue (s.br.stream.take bits) + base ≤ 19) ∧
    (bits = 5 → 20 ≤ bitsValue (s.br.stream.take bits) + base ∧ bitsValue (s.br.stream.take bits) + base ≤ 51)

/-- Pretree symbol 19: the `same` bit, then one more pretree symbol `newCode`; `same + 4` lengths become the one value
`(17 + old - newCode) mod 17`, `old` being the length at the run's first position (R185). -/
def Obligations.PretreeSameRun : Prop :=
  ∀ (s t u : State) (same code : Nat), s.upd.pos < s.upd.stop → s.upd.stop ≤ s.updLens.length → readBits 1 s = .ok same t →
    decodeSymbol .pre t = .ok code u → code ≤ 16 → s.upd.pos + (same + 4) ≤ s.upd.stop →
    ∃ lens, exec .ptSameRun s = .next ((u.setUpdLens lens).setUpd { s.upd with pos := s.upd.pos + (same + 4) }) ∧
      lens.length = s.updLens.length ∧
      ∀ j, lenAt lens j =
        if s.upd.pos ≤ j ∧ j < s.upd.pos + (same + 4) then (17 + lenAt s.updLens s.upd.pos - code) % 17 else lenAt s.updLens j

/-- A run that passes the end of its range faults `RunOverflow`, a `newCode` above 16 faults `NewCode`, and that test comes first (R185,
R187). -/
def Obligations.PretreeRunFaults : Prop :=
  ∀ s : State, s.upd.pos < s.upd.stop →
    (4 ≤ s.br.stream.length → s.upd.stop < s.upd.pos + (bitsValue (s.br.stream.take 4) + 4) →
      Faults .ptZeroRunShort s (.corruptTable .runOverflow)) ∧
    (5 ≤ s.br.stream.length → s.upd.stop < s.upd.pos + (bitsValue (s.br.stream.take 5) + 20) →
      Faults .ptZeroRunLong s (.corruptTable .runOverflow)) ∧
    (∀ same t code u, readBits 1 s = .ok same t → decodeSymbol .pre t = .ok code u → code ≤ 16 →
      s.upd.stop < s.upd.pos + (same + 4) → Faults .ptSameRun s (.corruptTable .runOverflow)) ∧
    (∀ same t code u, readBits 1 s = .ok same t → decodeSymbol .pre t = .ok code u → 16 < code →
      Faults .ptSameRun s (.corruptTable .newCode))

/-- The two length fields of a block body set all the lengths of their table and build it (R98, R99, R180, R189); that the lengths stand in
ascending symbol order is the spec's inference from general knowledge (G5, D34), PRESUMED in log 13. -/
def Obligations.LengthFieldsBuildTables : Prop :=
  (∀ (l : BitVec 80) (s : State), ∃ lens : List Nat, lens.length = 20 ∧ (∀ k, k < 20 → lenAt lens k = l.toNat / 2 ^ (76 - 4 * k) % 16) ∧
    BuildsTable (.pretreeLengths l) s .pre lens s) ∧
  (∀ (l : BitVec 24) (s : State), ∃ lens : List Nat, lens.length = 8 ∧ (∀ k, k < 8 → lenAt lens k = l.toNat / 2 ^ (21 - 3 * k) % 8) ∧
    BuildsTable (.alignedLengths l) s .align lens s)

/-- `readPretree` takes twenty 4-bit lengths and `readAlignedTree` eight 3-bit lengths from the stream, in symbol order, and builds the
table; with too few bits they fault (R180, R189); the symbol order is the spec's inference from general knowledge (G5, D34), PRESUMED in
log 13. -/
def Obligations.TreesAreReadFromTheStream : Prop :=
  ∀ s : State,
    (80 ≤ s.br.stream.length → ∃ q, s.br.Advanced q 80 ∧
      BuildsTable .readPretree s .pre ((List.range 20).map fun k => bitsValue ((s.br.stream.drop (4 * k)).take 4)) (s.setBr q)) ∧
    (s.br.stream.length < 80 → Faults .readPretree s (.outOfBounds .wordFetch)) ∧
    (24 ≤ s.br.stream.length → ∃ q, s.br.Advanced q 24 ∧
      BuildsTable .readAlignedTree s .align ((List.range 8).map fun k => bitsValue ((s.br.stream.drop (3 * k)).take 3)) (s.setBr q)) ∧
    (s.br.stream.length < 24 → Faults .readAlignedTree s (.outOfBounds .wordFetch))

/-- `updateRange(T, start, end)` reads a fresh pretree and then runs pretree symbols until the position is exactly `end`; the lengths
outside the range, the other array and every decode table but the pretree's stay (R181, R187). -/
def Obligations.UpdateRangeRunsItsSymbols : Prop :=
  ∀ (s s1 t : State) (target : LenArray) (start stop : Nat), start ≤ stop → stop ≤ (s.table (lensKind target)).lens.length →
    Completes .readPretree s s1 → PretreePasses (s1.setUpd ⟨target, start, stop⟩) t →
    exec (.updateRange target start stop) s = .next t ∧ t.upd = ⟨target, stop, stop⟩ ∧
      (t.table (lensKind target)).lens.length = (s.table (lensKind target)).lens.length ∧
      (∀ j, j < start ∨ stop ≤ j → lenAt (t.table (lensKind target)).lens j = lenAt (s.table (lensKind target)).lens j) ∧
      (∀ k, k ≠ lensKind target → k ≠ .pre → t.table k = s.table k) ∧
      (t.table (lensKind target)).tab = (s.table (lensKind target)).tab ∧
      (t.table (lensKind target)).maxLength = (s.table (lensKind target)).maxLength ∧
      (t.table (lensKind target)).present = (s.table (lensKind target)).present

/-- A range update can take its array from any lengths to any others: on the bits of a pretree and one delta symbol for each position it
completes with exactly the wanted lengths in the range, the rest of the array as it was, and the cursor right behind those bits (R180 to R182,
R164); that the pretree's own lengths stand in ascending symbol order is the spec's inference from general knowledge (G5, D34), PRESUMED in
log 13. -/
def Obligations.RangeUpdateReachesEveryLengths : Prop :=
  ∀ (s : State) (target : LenArray) (start stop : Nat) (new : List Nat) (rest : List Bool), start ≤ stop →
    stop ≤ (s.table (lensKind target)).lens.length → (∀ L ∈ (s.table (lensKind target)).lens, L ≤ 16) → new.length = stop - start →
    (∀ L ∈ new, L ≤ 16) →
    s.br.stream = updateBits (((s.table (lensKind target)).lens.drop start).take (stop - start)) new ++ rest →
    ∃ t, exec (.updateRange target start stop) s = .next t ∧ t.br.stream = rest ∧
      (t.table (lensKind target)).lens =
        (s.table (lensKind target)).lens.take start ++ new ++ (s.table (lensKind target)).lens.drop stop

/-- The body of a Verbatim block, and the whole block, can set any main and length tree that tile (or leave the length tree absent): on the
bits of the three range updates `readTables` completes with exactly those lengths and their canonical tables, and `readBlock`, the header
before them, makes the block the current one; the cursor stands right behind (R93, R96, R160 to R163, R180 to R182, R188, R201, R204; the
three ranges and the order of the pretree's lengths are the spec's inference from general knowledge, PRESUMED in log 13). -/
def Obligations.VerbatimBlockSetsAnyTrees : Prop :=
  ∀ (s : State) (main len : List Nat) (rest : List Bool), s.main.lens.length = nMain s.cfg.positionSlots → s.len.lens.length = 249 →
    (∀ L ∈ s.main.lens, L ≤ 16) → (∀ L ∈ s.len.lens, L ≤ 16) → main.length = nMain s.cfg.positionSlots → len.length = 249 →
    (∀ L ∈ main, L ≤ 16) → (∀ L ∈ len, L ≤ 16) → Tiles main → Tiles len ∨ maxLen len = 0 →
    (s.br.stream = updateBits (s.main.lens.take 256) (main.take 256) ++ updateBits (s.main.lens.drop 256) (main.drop 256) ++
        updateBits s.len.lens len ++ rest →
      ∃ t, exec .readTables s = .next t ∧ t.br.stream = rest ∧ t.main.lens = main ∧ t.len.lens = len ∧
        t.main.present = true ∧ t.main.maxLength = maxLen main ∧ Canonical main t.main.tab ∧ t.len.present = decide (maxLen len ≠ 0) ∧
        (maxLen len ≠ 0 → t.len.maxLength = maxLen len ∧ Canonical len t.len.tab)) ∧
    ∀ size : BitVec 24, size ≠ 0 →
      s.br.stream = fieldBits 27 (headerWord 1 size) ++ (updateBits (s.main.lens.take 256) (main.take 256) ++
        updateBits (s.main.lens.drop 256) (main.drop 256) ++ updateBits s.len.lens len ++ rest) →
      ∃ t, exec .readBlock s = .next t ∧ t.br.stream = rest ∧ t.main.lens = main ∧ t.len.lens = len ∧ Canonical main t.main.tab ∧
        t.blk = { s.blk with kind := .verbatim, size := size.toNat, remaining := size.toNat }

/-- `readTables` is the literals' update, the match symbols' update, the main table, the lengths' update, the length table, in that order,
and the first fault reached is the one reported (R188, R312; the ranges and their order are the spec's inference from general knowledge,
PRESUMED in log 13). -/
def Obligations.ReadTablesInOrder : Prop :=
  ∀ (s s1 s2 s3 s4 t : State) (k : FaultKind),
    (Completes (.updateRange .mainLen 0 256) s s1 → Completes (.updateRange .mainLen 256 (nMain s1.cfg.positionSlots)) s1 s2 →
      Completes (.buildTable .main) s2 s3 → Completes (.updateRange .lenLen 0 249) s3 s4 → Completes (.buildTable .len) s4 t →
      exec .readTables s = .next t) ∧
    (Faults (.updateRange .mainLen 0 256) s k → Faults .readTables s k) ∧
    (Completes (.updateRange .mainLen 0 256) s s1 → Faults (.updateRange .mainLen 256 (nMain s1.cfg.positionSlots)) s1 k →
      Faults .readTables s k) ∧
    (Completes (.updateRange .mainLen 0 256) s s1 → Completes (.updateRange .mainLen 256 (nMain s1.cfg.positionSlots)) s1 s2 →
      Faults (.buildTable .main) s2 k → Faults .readTables s k) ∧
    (Completes (.updateRange .mainLen 0 256) s s1 → Completes (.updateRange .mainLen 256 (nMain s1.cfg.positionSlots)) s1 s2 →
      Completes (.buildTable .main) s2 s3 → Faults (.updateRange .lenLen 0 249) s3 k → Faults .readTables s k) ∧
    (Completes (.updateRange .mainLen 0 256) s s1 → Completes (.updateRange .mainLen 256 (nMain s1.cfg.positionSlots)) s1 s2 →
      Completes (.buildTable .main) s2 s3 → Completes (.updateRange .lenLen 0 249) s3 s4 → Faults (.buildTable .len) s4 k →
      Faults .readTables s k)

/-! ### Blocks -/

/-- Tag dispatch: 1, 2, 3 are Verbatim, Aligned, Uncompressed; every other tag faults `InvalidBlockType` with the tag as `info`, as a
header and in `readBlock`, where nothing after the header's 27 bits need exist (R202). -/
def Obligations.TagDispatch : Prop :=
  ∀ (s : State) (size : BitVec 24),
    exec (.blockVerbatim size) s = .next (s.setHdr ⟨.verbatim, size.toNat⟩) ∧
    exec (.blockAligned size) s = .next (s.setHdr ⟨.aligned, size.toNat⟩) ∧
    exec (.blockUncompressed size) s = .next (s.setHdr ⟨.uncompressed, size.toNat⟩) ∧
    (∀ i tag, (i, tag) ∈ [(Instr.blockInvalid0 size, 0), (Instr.blockInvalid4 size, 4), (Instr.blockInvalid5 size, 5),
        (Instr.blockInvalid6 size, 6), (Instr.blockInvalid7 size, 7)] →
      ∃ t, exec i s = .next t ∧ t = takeFault (.invalidBlockType (BitVec.ofNat 4 tag)) s ∧ t.fault = ⟨true, 2, BitVec.ofNat 4 tag⟩) ∧
    (27 ≤ s.br.stream.length → bitsValue (s.br.stream.take 3) ∉ [1, 2, 3] →
      ∃ t, exec .readBlock s = .next t ∧ t = takeFault (.invalidBlockType (BitVec.ofNat 4 (bitsValue (s.br.stream.take 3)))) s ∧
        t.fault = ⟨true, 2, BitVec.ofNat 4 (bitsValue (s.br.stream.take 3))⟩)

/-- `readBlock` reads the 27 header bits, then the body of its kind, then judges the size, and only then makes the block the current one;
a size of 0 faults after the body (R201, R204 to R206). -/
def Obligations.ReadBlockHeaderBodyCommit : Prop :=
  ∀ (s u t : State) (tag : Nat) (size : BitVec 24), readHeader s = .ok (tag, size) u →
    (tag = 1 → Completes .readTables (u.setHdr ⟨.verbatim, size.toNat⟩) t →
      (size ≠ 0 → exec .readBlock s = .next (t.setBlk { t.blk with kind := .verbatim, size := size.toNat, remaining := size.toNat })) ∧
      (size = 0 → Faults .readBlock s .zeroSizeBlock)) ∧
    (∀ v, tag = 2 → Completes .readAlignedTree (u.setHdr ⟨.aligned, size.toNat⟩) v → Completes .readTables v t →
      (size ≠ 0 → exec .readBlock s = .next (t.setBlk { t.blk with kind := .aligned, size := size.toNat, remaining := size.toNat })) ∧
      (size = 0 → Faults .readBlock s .zeroSizeBlock)) ∧
    (tag = 3 → Completes .readUncompressedBody (u.setHdr ⟨.uncompressed, size.toNat⟩) t →
      (size ≠ 0 → exec .readBlock s = .next (t.setBlk { t.blk with kind := .uncompressed, size := size.toNat, remaining := size.toNat })) ∧
      (size = 0 → Faults .readBlock s .zeroSizeBlock))

/-- The Uncompressed body: after the alignment three little-endian 32-bit values go to the block's own registers unchecked, the offset
cache unchanged, and no bits stay pending; the row of the three values does the same (R30, R203). -/
def Obligations.UncompressedBodySetsBlockOffsets : Prop :=
  (∀ (s : State) (r0 r1 r2 : Word32), exec (.uncompressedRValues r0 r1 r2) s = .next (s.setBlk { s.blk with r0 := r0, r1 := r1, r2 := r2 })) ∧
  ∀ s : State,
    (96 ≤ s.br.align.stream.length → ∃ q, s.br.align.Advanced q 96 ∧ q.bitsLeft = 0 ∧
      exec .readUncompressedBody s = .next ((s.setBr q).setBlk
        { s.blk with
          r0 := u32Value s.br.align.stream
          r1 := u32Value (s.br.align.stream.drop 32)
          r2 := u32Value (s.br.align.stream.drop 64) })) ∧
    (s.br.align.stream.length < 96 → Faults .readUncompressedBody s (.outOfBounds .wordFetch))

/-! ### Elements -/

/-- Match length: a header below 7 is the length minus 2; 7 is followed by a length symbol `t` and the length is `t + 7 + 2`, in 9 to 257;
with the length tree absent it faults (R210). -/
def Obligations.MatchLengthRule : Prop :=
  (∀ (s : State) (lh : BitVec 3) (i : Instr), lenHdrCtors[lh.toNat]? = some i →
    (lh.toNat < 7 →
      exec i s = .next (s.setElt { s.elt with length := lh.toNat + 2 }) ∧
      exec (.matchLength lh) s = .next ((s.setElt { s.elt with length := lh.toNat + 2 }).setRet (.num (lh.toNat + 2)))) ∧
    (lh.toNat = 7 → ∀ t u, decodeSymbol .len s = .ok t u →
      exec i s = .next (u.setElt { s.elt with length := t + 7 + 2 }) ∧
      exec (.matchLength lh) s = .next ((u.setElt { s.elt with length := t + 7 + 2 }).setRet (.num (t + 7 + 2))) ∧
      ((s.table .len).Filled → s.len.lens.length = 249 → 9 ≤ t + 7 + 2 ∧ t + 7 + 2 ≤ 257)) ∧
    (lh.toNat = 7 → s.len.present = false →
      Faults i s (.corruptTable .absentLengthTree) ∧ Faults (.matchLength lh) s (.corruptTable .absentLengthTree))) ∧
  ∀ (s : State) (t : BitVec 8), t.toNat < 249 → exec (.lengthSymbol t) s = .next (s.setElt { s.elt with length := t.toNat + 7 + 2 })

/-- Slots 0, 1 and 2 use `REP0`, `REP1`, `REP2`; slot 0 leaves the cache, slots 1 and 2 swap the used register with `REP0`; nothing else
changes (R211 to R213). From `(a, b, c)` slot 1 then slot 0 gives `b` twice and `(b, a, c)`. -/
def Obligations.CachedOffsetsSwap : Prop :=
  ∀ s : State,
    exec .matchOffsetSlot0 s = .next ((s.setElt { s.elt with offset := s.rep.r0 }).setRet (.num s.rep.r0.toNat)) ∧
    exec .matchOffsetSlot1 s =
      .next (((s.setRep ⟨s.rep.r1, s.rep.r0, s.rep.r2⟩).setElt { s.elt with offset := s.rep.r1 }).setRet (.num s.rep.r1.toNat)) ∧
    exec .matchOffsetSlot2 s =
      .next (((s.setRep ⟨s.rep.r2, s.rep.r1, s.rep.r0⟩).setElt { s.elt with offset := s.rep.r2 }).setRet (.num s.rep.r2.toNat)) ∧
    ∃ t u, exec .matchOffsetSlot1 s = .next t ∧ exec .matchOffsetSlot0 t = .next u ∧ t.ret = .num s.rep.r1.toNat ∧
      u.ret = .num s.rep.r1.toNat ∧ u.rep = ⟨s.rep.r1, s.rep.r0, s.rep.r2⟩

/-- Slots 3 and above, both paths: the raw bits, on the aligned path then an aligned symbol, give the formatted offset; the match offset is
that minus 2, it lies inside the slot's range, is returned and pushed on the cache; nothing else but the cursor changes (R214 to R217, R115
(b), (c)). A slot outside the operation's range is refused, DEDUCED in log 15. The two constant tables and their combining by addition (D31,
D33) are PRESUMED in log 12, the raw bits before the aligned code (D32) in log 13: the spec has both from general knowledge. -/
def Obligations.CodedOffsets : Prop :=
  (∀ (s : State) (slot : Nat) (i : Instr),
    ((3 ≤ slot ∧ slot < 98 ∧ i = .matchOffsetVerbatim slot) ∨ (3 ≤ slot ∧ slot ≤ 7 ∧ i = .matchOffsetAlignedShort slot)) →
    footerBits slot ≤ s.br.stream.length →
    ∃ q off v, s.br.Advanced q (footerBits slot) ∧ v = bitsValue (s.br.stream.take (footerBits slot)) ∧
      off.toNat + 2 = basePosition slot + v ∧ 1 ≤ off.toNat ∧ off.toNat + 3 ≤ basePosition (slot + 1) ∧
      exec i s = .next ((((s.setBr q).setElt { s.elt with slot := slot, v := v, offset := off }).setRep ⟨off, s.rep.r0, s.rep.r1⟩).setRet
        (.num off.toNat))) ∧
  (∀ (s t u : State) (slot v a : Nat), 8 ≤ slot → slot < 98 → readBits (footerBits slot - 3) s = .ok v t →
    decodeSymbol .align t = .ok a u → a < 8 →
    ∃ off : Word32, off.toNat + 2 = basePosition slot + 8 * v + a ∧ 1 ≤ off.toNat ∧ off.toNat + 3 ≤ basePosition (slot + 1) ∧
      exec (.matchOffsetAligned slot) s =
        .next (((u.setElt { s.elt with slot := slot, v := v, offset := off }).setRep ⟨off, s.rep.r0, s.rep.r1⟩).setRet (.num off.toNat))) ∧
  (∀ (s : State) (slot : Nat), ¬(3 ≤ slot ∧ slot < 98) → exec (.matchOffsetVerbatim slot) s = .refused .outsideDomain) ∧
  (∀ (s : State) (slot : Nat), ¬(8 ≤ slot ∧ slot < 98) → exec (.matchOffsetAligned slot) s = .refused .outsideDomain) ∧
  ∀ (s : State) (slot : Nat), ¬(3 ≤ slot ∧ slot ≤ 7) → exec (.matchOffsetAlignedShort slot) s = .refused .outsideDomain

/-- The parts of a coded offset as rows of their own: the footer field reads the raw bits of the match's slot and, off the aligned path,
completes the offset; the aligned symbol completes it on that path; completing one pushes it on the cache (R105, R106, R214 to R217). The two
constant tables and their combining by addition (D31, D33) are PRESUMED in log 12, the raw bits before the aligned symbol (D32) in log 13. What
a row does with a slot that has no such field (R104, R115 (b)), the subtraction cut at 0, is the model's choice, log 28. -/
def Obligations.OffsetFieldRows : Prop :=
  (∀ s : State, ¬(s.blk.kind = .aligned ∧ 3 ≤ footerBits s.elt.slot) → footerBits s.elt.slot ≤ s.br.stream.length →
    ∃ q v off, s.br.Advanced q (footerBits s.elt.slot) ∧ v = bitsValue (s.br.stream.take (footerBits s.elt.slot)) ∧
      off = BitVec.ofNat 32 (basePosition s.elt.slot + v - 2) ∧
      exec .footerBitsField s = .next (((s.setBr q).setElt { s.elt with v := v, offset := off }).setRep ⟨off, s.rep.r0, s.rep.r1⟩)) ∧
  (∀ s : State, s.blk.kind = .aligned → 3 ≤ footerBits s.elt.slot → footerBits s.elt.slot - 3 ≤ s.br.stream.length →
    ∃ q, s.br.Advanced q (footerBits s.elt.slot - 3) ∧
      exec .footerBitsField s =
        .next ((s.setBr q).setElt { s.elt with v := bitsValue (s.br.stream.take (footerBits s.elt.slot - 3)) })) ∧
  (∀ (s : State) (a : BitVec 3), ∃ off, off = BitVec.ofNat 32 (basePosition s.elt.slot + 8 * s.elt.v + a.toNat - 2) ∧
    exec (.alignedSymbol a) s = .next ((s.setElt { s.elt with offset := off }).setRep ⟨off, s.rep.r0, s.rep.r1⟩)) ∧
  ∀ (s : State) (off : Word32), exec (.pushOffset off) s = .next (s.setRep ⟨off, s.rep.r0, s.rep.r1⟩)

/-- A literal writes its byte at `WPOS`, moves `WPOS` on, and takes 1 from what the block owes; the cache, the cursor and every other byte
of the window stay (R209, R240, R269). -/
def Obligations.LiteralElement : Prop :=
  ∀ (s : State) (b : Byte), s.win.Wf s.cfg.windowSize → 1 ≤ s.blk.remaining →
    ∃ w, exec (.literal b) s =
        .next (((s.setWin w).setBlk { s.blk with remaining := s.blk.remaining - 1 }).setCmd { s.cmd with produced := s.cmd.produced + 1 }) ∧
      w.pos = (s.win.pos + 1) % s.cfg.windowSize ∧
      ∀ a, memRead w.cells a = if a = s.win.pos then b else memRead s.win.cells a

/-- A match of any of the 98 position slots, with any length header, in any block: the length is read first, then the offset; the copy is
made, the block's debt and the command's count move by the length; nothing else but the cursor, the cache and the match's own locals changes,
and the window only at the copied addresses (R209 to R219, R241, R268, R269). The length before the offset, and the raw bits before the
aligned code, are general knowledge (G6, D32), PRESUMED in log 13; the offset tables and their combining are PRESUMED in log 12. -/
def Obligations.MatchElements : Prop :=
  ∀ (s u v : State) (slot n : Nat) (lh : BitVec 3) (ctor : BitVec 3 → Instr) (off : Word32), slotCtors[slot]? = some ctor →
    slot < s.cfg.positionSlots → s.win.Wf s.cfg.windowSize → LengthReads lh s n u → OffsetReads slot u off v →
    1 ≤ off.toNat → off.toNat ≤ s.cfg.windowSize → n ≤ s.blk.remaining →
    ∃ w e, exec (ctor lh) s =
        .next ((((v.setWin w).setBlk { s.blk with remaining := s.blk.remaining - n }).setCmd { s.cmd with produced := s.cmd.produced + n }).setElt e) ∧
      e.length = n ∧ e.offset = off ∧ w.pos = (s.win.pos + n) % s.cfg.windowSize ∧
      (∀ a, ¬s.win.writes s.cfg.windowSize n a → memRead w.cells a = memRead s.win.cells a) ∧
      ∀ k, 1 ≤ k → k ≤ s.cfg.windowSize → w.history s.cfg.windowSize k =
        if k ≤ n then s.win.history s.cfg.windowSize (off.toNat - (n - k) % off.toNat) else s.win.history s.cfg.windowSize (k - n)

/-- Where a match faults: an absent length tree, an offset of 0 or above `W`, a length above what the block owes, in that order (R165, R242,
R269, R305, R309, R312). That the length, and so its absent tree, comes before the offset is general knowledge (G6, D32), PRESUMED in log 13; the
offset tables are PRESUMED in log 12. -/
def Obligations.MatchFaults : Prop :=
  ∀ (s : State) (slot : Nat) (lh : BitVec 3) (ctor : BitVec 3 → Instr), slotCtors[slot]? = some ctor → slot < s.cfg.positionSlots →
    (lh.toNat = 7 → s.len.present = false → Faults (ctor lh) s (.corruptTable .absentLengthTree)) ∧
    ∀ u v n off, LengthReads lh s n u → OffsetReads slot u off v →
      (off.toNat = 0 → Faults (ctor lh) s .windowRangeZero) ∧
      (s.cfg.windowSize < off.toNat → Faults (ctor lh) s .windowRangeAbove) ∧
      (1 ≤ off.toNat → off.toNat ≤ s.cfg.windowSize → s.blk.remaining < n → Faults (ctor lh) s .decodeOverrun)

/-- The raw bytes of an Uncompressed block: the cache takes the block's three offsets, as many bytes as the block owes and the input still
has go to the window in address order; with none left it faults `InternalInvariant` (R208, R244, R269, R308). -/
def Obligations.RawBytesElement : Prop :=
  ∀ (s : State) (n : Nat), s.win.Wf s.cfg.windowSize → n = min s.blk.remaining (s.br.len - s.br.bytePos) →
    (1 ≤ n → ∃ w, exec .rawBytes s =
        .next (((((s.setBr { s.br with bytePos := s.br.bytePos + n }).setRep ⟨s.blk.r0, s.blk.r1, s.blk.r2⟩).setWin w).setBlk
          { s.blk with remaining := s.blk.remaining - n }).setCmd { s.cmd with produced := s.cmd.produced + n }) ∧
      w.pos = (s.win.pos + n) % s.cfg.windowSize ∧
      (∀ a, ¬s.win.writes s.cfg.windowSize n a → memRead w.cells a = memRead s.win.cells a) ∧
      ∀ k, 1 ≤ k → k ≤ s.cfg.windowSize → w.history s.cfg.windowSize k =
        if k ≤ n then s.br.data.getD (s.br.bytePos + (n - k)) 0 else s.win.history s.cfg.windowSize (k - n)) ∧
    (n = 0 → Faults .rawBytes s .internalInvariant)

/-- `decodeElement`, `decodeCoded` and `decodeUncompressed` give the element by the block's kind and change only the cursor, the cache and
the match's own locals: a literal for a main symbol up to 255, else a match of the symbol's slot and header; a bulk read of what the block
owes and the input has (R207 to R209). A match reads its length before its offset, general knowledge (G6, D32) PRESUMED in log 13, and the offset
from the two constant tables, PRESUMED in log 12. -/
def Obligations.DecodeElementByKind : Prop :=
  (∀ (s u : State) (sym : Nat) (i : Instr), i = .decodeCoded ∨ (i = .decodeElement ∧ s.blk.kind ≠ .uncompressed ∧ 0 < s.blk.remaining) →
    decodeSymbol .main s = .ok sym u →
    (sym ≤ 255 → exec i s = .next (u.setRet (.element (.literal (BitVec.ofNat 8 sym))))) ∧
    (∀ t v n off, 256 ≤ sym → (sym - 256) / 8 < s.cfg.positionSlots → sym < 1040 → LengthReads (BitVec.ofNat 3 (sym % 8)) u n t →
      OffsetReads ((sym - 256) / 8) t off v → ∃ e, exec i s = .next ((v.setElt e).setRet (.element (.matched off n))))) ∧
  ∀ (s : State) (n : Nat) (i : Instr), i = .decodeUncompressed ∨ (i = .decodeElement ∧ s.blk.kind = .uncompressed ∧ 0 < s.blk.remaining) →
    n = min s.blk.remaining (s.br.len - s.br.bytePos) →
    (1 ≤ n → exec i s = .next ((s.setRep ⟨s.blk.r0, s.blk.r1, s.blk.r2⟩).setRet (.element (.bulkRead n)))) ∧
    (n = 0 → Faults i s .internalInvariant)

/-! ### The window -/

/-- `push(b)` writes at `WPOS` and advances it with wraparound: the byte is `H(1)`, every other byte of the history is one further back, the
oldest is lost; it cannot fault (R240). -/
def Obligations.PushShiftsHistory : Prop :=
  ∀ (s : State) (b : Byte), s.win.Wf s.cfg.windowSize →
    ∃ w, exec (.push b) s = .next (s.setWin w) ∧ w.pos = (s.win.pos + 1) % s.cfg.windowSize ∧
      memRead w.cells s.win.pos = b ∧ (∀ a, a ≠ s.win.pos → memRead w.cells a = memRead s.win.cells a) ∧
      w.history s.cfg.windowSize 1 = b ∧
      ∀ k, 1 ≤ k → k < s.cfg.windowSize → w.history s.cfg.windowSize (k + 1) = s.win.history s.cfg.windowSize k

/-- `copyFromSelf(offset, length)` copies forward, byte by byte: the copied bytes repeat the last `offset` bytes with that period; offsets 1
to `W` are accepted whatever has been produced, 0 and above `W` fault before any byte is copied (R241, R242, R344). -/
def Obligations.CopyFromSelfIsForward : Prop :=
  ∀ (s : State) (offset n : Nat), s.win.Wf s.cfg.windowSize →
    (1 ≤ offset → offset ≤ s.cfg.windowSize → ∃ w, exec (.copyFromSelf offset n) s = .next (s.setWin w) ∧
      w.pos = (s.win.pos + n) % s.cfg.windowSize ∧
      (∀ a, ¬s.win.writes s.cfg.windowSize n a → memRead w.cells a = memRead s.win.cells a) ∧
      ∀ k, 1 ≤ k → k ≤ s.cfg.windowSize → w.history s.cfg.windowSize k =
        if k ≤ n then s.win.history s.cfg.windowSize (offset - (n - k) % offset) else s.win.history s.cfg.windowSize (k - n)) ∧
    (offset = 0 → Faults (.copyFromSelf offset n) s .windowRangeZero) ∧
    (s.cfg.windowSize < offset → Faults (.copyFromSelf offset n) s .windowRangeAbove)

/-- `copyFromBitstream(n)`, and `readBytesInto` whose destination is always the window, push `n` input bytes in address order; too few bytes
fault before any is written (R138, R244). -/
def Obligations.CopyFromBitstreamPushesBytes : Prop :=
  ∀ (s : State) (n : Nat) (i : Instr), s.win.Wf s.cfg.windowSize → i = .copyFromBitstream n ∨ i = .readBytesInto n →
    (s.br.bytePos + n ≤ s.br.len → ∃ w, exec i s = .next ((s.setBr { s.br with bytePos := s.br.bytePos + n }).setWin w) ∧
      w.pos = (s.win.pos + n) % s.cfg.windowSize ∧
      (∀ a, ¬s.win.writes s.cfg.windowSize n a → memRead w.cells a = memRead s.win.cells a) ∧
      ∀ k, 1 ≤ k → k ≤ s.cfg.windowSize → w.history s.cfg.windowSize k =
        if k ≤ n then s.br.data.getD (s.br.bytePos + (n - k)) 0 else s.win.history s.cfg.windowSize (k - n)) ∧
    (s.br.len < s.br.bytePos + n → Faults i s (.outOfBounds .bytesRead))

/-- The circular window is a linear buffer: it holds the last `W` bytes of everything pushed since reset, zeros before; `push` and
`copyFromSelf` append to that buffer, each copied byte the one `offset` back, and `pastView(n)` returns its last `n` bytes, oldest first,
changing nothing (R245, R247). -/
def Obligations.WindowIsLinearBuffer : Prop :=
  (∀ entry ∈ positionSlotsTable, (State.resetOf entry.1).win.Holds entry.1 []) ∧
  ∀ (s : State) (out : List Byte), s.win.Wf s.cfg.windowSize → s.win.Holds s.cfg.windowSize out →
    (∀ b, ∃ t, exec (.push b) s = .next t ∧ t.win.Wf s.cfg.windowSize ∧ t.win.Holds s.cfg.windowSize (out ++ [b])) ∧
    (∀ offset n, 1 ≤ offset → offset ≤ s.cfg.windowSize →
      ∃ t, exec (.copyFromSelf offset n) s = .next t ∧ t.win.Wf s.cfg.windowSize ∧
        t.win.Holds s.cfg.windowSize (linearCopy out offset n)) ∧
    ∀ n, n ≤ 32768 → n ≤ s.cfg.windowSize → exec (.pastView n) s = .next (s.setRet (.bytes (linearView out n)))

/-! ### Chunks and host commands -/

/-- The E8 flag: 0 changes nothing, 1 faults `UnsupportedE8`, code 6, and no other fault has that code (R265, R306). -/
def Obligations.E8Flag : Prop :=
  ∀ s : State, exec .e8Clear s = .next s ∧
    (∃ t, exec .e8Set s = .next t ∧ t = takeFault .unsupportedE8 s ∧ t.fault = ⟨true, 6, 0⟩) ∧
    ∀ k : FaultKind, k.code = 6 → k = .unsupportedE8

/-- The tail of a chunk: the output is the last `outputSize` bytes of the history, oldest first; `chunkOffset` grows by `outputSize` modulo
2^64 and `decodedChunks` by 1 up to 2^32 - 1; the window, the tables, the cache and the block stay (R42, R43, R245, R270, R271). R91 says only
that the tail is never read: that its row is where steps 4 and 5 run is DEDUCED in log 11; that the reader and the command's registers keep what
they held is the model's choice, log 26. -/
def Obligations.ChunkTailDelivers : Prop :=
  ∀ s : State, ∃ out offset count result,
    exec .chunkTail s = .next { s with out := out, chunkOffset := offset, decodedChunks := count, result := result } ∧
      out.length = s.cmd.outputSize ∧
      (∀ k, k < s.cmd.outputSize → out[k]? = some (s.win.history s.cfg.windowSize (s.cmd.outputSize - k))) ∧
      offset.toNat = (s.chunkOffset.toNat + s.cmd.outputSize) % 2 ^ 64 ∧
      (s.decodedChunks < 2 ^ 32 - 1 → count = s.decodedChunks + 1) ∧ (s.decodedChunks = 2 ^ 32 - 1 → count = 2 ^ 32 - 1) ∧
      result = if s.cmd.wantBytes then .bytes out else .bytesWritten s.cmd.outputSize

/-- `construct(W)` with a legal `W` gives every reset value the spec states, whatever the core held; any other `W` leaves the core
unconstructed, without making it FAULTED, with the result `Fault(7, 0)` (R49, R109, R261, R307). That a failed `construct` leaves `FAULT.*` as
it was is the model's choice, marked unsafe in log 6: R50 leaves the registers of an unconstructed core undefined. -/
def Obligations.ConstructSetsResetValues : Prop :=
  ∀ (s : State) (w : Nat),
    (∀ slots, (w, slots) ∈ positionSlotsTable → ∃ t, exec (.construct w) s = .next t ∧ t.cfg = ⟨w, slots⟩ ∧ t.constructed = true ∧
      t.rep = ⟨1, 1, 1⟩ ∧ t.blk.kind = .none ∧ t.blk.size = 0 ∧ t.blk.remaining = 0 ∧
      (∀ a, memRead t.win.cells a = 0) ∧ t.win.pos = 0 ∧
      (∀ k, (t.table k).lens = List.replicate (symbolCount slots k) 0 ∧ (t.table k).present = false ∧ (t.table k).maxLength = 0) ∧
      t.chunkOffset = 0 ∧ t.decodedChunks = 0 ∧ t.fault = ⟨false, 0, 0⟩ ∧ t.phase = .idle ∧ t.result = .completed) ∧
    ((∀ slots, (w, slots) ∉ positionSlotsTable) → ∃ t, exec (.construct w) s = .next t ∧ t.constructed = false ∧ t.fault = s.fault ∧
      t.phase = .idle ∧ t.result = .fault 7 0)

/-- `reset()` on a constructed core gives the same state as `construct(CFG.windowSize)`; a second `reset()` changes nothing; and the state
does not depend on anything that happened before, a fault included, so the same chunk decodes alike after it (R342; the waiting commands and
the count of free values drawn are the model's own and stay, log 5 and log 8). -/
def Obligations.ResetEqualsReconstruction : Prop :=
  ∀ s : State, s.constructed = true → (s.cfg.windowSize, s.cfg.positionSlots) ∈ positionSlotsTable →
    ∃ t, exec .reset s = .next t ∧ exec (.construct s.cfg.windowSize) s = .next t ∧ t.cfg = s.cfg ∧ exec .reset t = .next t ∧
      (∀ s' : State, s'.constructed = true → s'.cfg = s.cfg →
        exec .reset s' = .next { t with host := s'.host, freeCtr := s'.freeCtr }) ∧
      ∀ (data : List Byte) (n : Option Nat) (u v w : State), exec (.decompressChunk data n) t = .next u → u.freeCtr = t.freeCtr →
        exec .reset u = .next v → exec (.decompressChunk data n) v = .next w → w = u

/-- A chunk command on an unconstructed or FAULTED core, or with too large an output or input, is refused in that order and changes nothing
but the result; `reset` is refused on an unconstructed core (R262, R263, R273, R275, R310; the result register is the model's own,
log 7). The four refusals have the code 10 and the infos 1 to 4 of the table of fault kinds, and no fault has that code (R300). -/
def Obligations.RefusalsChangeNothing : Prop :=
  (∀ (s : State) (data : List Byte) (n : Nat) (i : Instr), i = .decompressChunkInto data n ∨ i = .decompressChunk data (some n) →
    (s.constructed = false → exec i s = .next (s.setResult (.refused .notConstructed)) ∧
      exec .reset s = .next (s.setResult (.refused .notConstructed))) ∧
    (s.constructed = true → s.fault.flag = true → exec i s = .next (s.setResult (.refused .faulted))) ∧
    (s.Live → 32768 < n → exec i s = .next (s.setResult (.refused .outputSizeRange))) ∧
    (s.Live → n ≤ 32768 → 2 ^ 32 - 3 < data.length → exec i s = .next (s.setResult (.refused .inputLengthRange))) ∧
    exec (.decompressChunk data none) s = exec (.decompressChunk data (some 32768)) s) ∧
  [RefusalReason.notConstructed, .faulted, .outputSizeRange, .inputLengthRange].map (fun r => (HostResult.refused r).status) =
    [(10, 1), (10, 2), (10, 3), (10, 4)] ∧
  ∀ k : FaultKind, k.code ≠ 10

/-- A chunk that stores its bytes in one Uncompressed block decodes to exactly those bytes, from every live idle state in which a new block
is due, first chunk or later, pad byte owed or not, whatever the pad byte's value: the command completes with the payload, the cache takes
the block's offsets, the counters advance, the tables stay (R91 to R95, R117, R203, R208, R263 to R272). -/
def Obligations.StoredChunkDecodes : Prop :=
  ∀ (s : State) (r0 r1 r2 : Word32) (pad payload : List Byte), s.Inv → s.Live → s.phase = .idle → s.blk.remaining = 0 →
    pad.length = (if s.padOwed then 1 else 0) → 1 ≤ payload.length → payload.length ≤ 32768 →
    ∀ (i : Instr) (result : HostResult),
      ((i = .decompressChunkInto (storedChunk (decide (s.decodedChunks = 0)) pad r0 r1 r2 payload) payload.length ∧
          result = .bytesWritten payload.length) ∨
        (i = .decompressChunk (storedChunk (decide (s.decodedChunks = 0)) pad r0 r1 r2 payload) (some payload.length) ∧
          result = .bytes payload)) →
      ∃ t, exec i s = .next t ∧ t.result = result ∧ t.out = payload ∧ t.rep = ⟨r0, r1, r2⟩ ∧
        t.blk = ⟨.uncompressed, payload.length, 0, r0, r1, r2⟩ ∧ t.win = s.win.pushAll s.cfg.windowSize payload ∧
        t.chunkOffset = s.chunkOffset + BitVec.ofNat 64 payload.length ∧ t.decodedChunks = min (s.decodedChunks + 1) (2 ^ 32 - 1) ∧
        (∀ k, t.table k = s.table k) ∧ t.cfg = s.cfg ∧ t.constructed = s.constructed ∧ t.fault = s.fault ∧ t.phase = .idle

/-! ### Faults -/

/-- Fault entry writes `FAULT.*` with the code and info of the table of fault kinds, keeps the configuration and `CONSTRUCTED`, and ends the
command with `Fault(code, info)` (R300, R313). R313 calls every other register only unspecified: that it holds a free value, from which nothing
of the state before can be told, is the model's choice, marked unsafe in log 5. -/
def Obligations.FaultEntryForgets : Prop :=
  (∀ (k : FaultKind) (s : State), (takeFault k s).fault = ⟨true, k.code, k.info⟩ ∧ (takeFault k s).cfg = s.cfg ∧
    (takeFault k s).constructed = s.constructed ∧ (takeFault k s).result = .fault k.code k.info ∧ (takeFault k s).phase = .idle) ∧
  (∀ (k : FaultKind) (s t : State), s.cfg = t.cfg → s.constructed = t.constructed → s.host = t.host → s.freeCtr = t.freeCtr →
    takeFault k s = takeFault k t) ∧
  (∀ j k : FaultKind, j.code = k.code → j.info = k.info → j = k) ∧
  [FaultKind.outOfBounds .wordFetch, .outOfBounds .peek, .outOfBounds .byteRead, .outOfBounds .bytesRead, .invalidBlockType 5, .zeroSizeBlock,
    .corruptTable .incomplete, .corruptTable .oversubscribed, .corruptTable .empty, .corruptTable .pretreeSymbol, .corruptTable .newCode,
    .corruptTable .runOverflow, .corruptTable .absentLengthTree, .decodeOverrun, .unsupportedE8, .invalidConfiguration, .internalInvariant,
    .windowRangeZero, .windowRangeAbove].map (fun k => (k.code.toNat, k.info.toNat)) =
  [(1, 1), (1, 2), (1, 3), (1, 4), (2, 5), (3, 0), (4, 1), (4, 2), (4, 3), (4, 4), (4, 5), (4, 6), (4, 7), (5, 0), (6, 0), (7, 0), (8, 1),
    (9, 1), (9, 2)]
end

