-- ==== Sys2Proof/Laws/State.lean ====
section
/-! SUPPORT. Laws/State.lean: what each named register write leaves in each register. -/

namespace Sys2Proof.Machine

section
variable (s : State) (v : Reader)
@[simp] theorem State.setBr_cfg : (s.setBr v).cfg = s.cfg := rfl
@[simp] theorem State.setBr_constructed : (s.setBr v).constructed = s.constructed := rfl
@[simp] theorem State.setBr_br : (s.setBr v).br = v := rfl
@[simp] theorem State.setBr_rep : (s.setBr v).rep = s.rep := rfl
@[simp] theorem State.setBr_blk : (s.setBr v).blk = s.blk := rfl
@[simp] theorem State.setBr_main : (s.setBr v).main = s.main := rfl
@[simp] theorem State.setBr_len : (s.setBr v).len = s.len := rfl
@[simp] theorem State.setBr_align : (s.setBr v).align = s.align := rfl
@[simp] theorem State.setBr_pre : (s.setBr v).pre = s.pre := rfl
@[simp] theorem State.setBr_win : (s.setBr v).win = s.win := rfl
@[simp] theorem State.setBr_chunkOffset : (s.setBr v).chunkOffset = s.chunkOffset := rfl
@[simp] theorem State.setBr_decodedChunks : (s.setBr v).decodedChunks = s.decodedChunks := rfl
@[simp] theorem State.setBr_fault : (s.setBr v).fault = s.fault := rfl
@[simp] theorem State.setBr_cmd : (s.setBr v).cmd = s.cmd := rfl
@[simp] theorem State.setBr_out : (s.setBr v).out = s.out := rfl
@[simp] theorem State.setBr_phase : (s.setBr v).phase = s.phase := rfl
@[simp] theorem State.setBr_upd : (s.setBr v).upd = s.upd := rfl
@[simp] theorem State.setBr_hdr : (s.setBr v).hdr = s.hdr := rfl
@[simp] theorem State.setBr_elt : (s.setBr v).elt = s.elt := rfl
@[simp] theorem State.setBr_ret : (s.setBr v).ret = s.ret := rfl
@[simp] theorem State.setBr_result : (s.setBr v).result = s.result := rfl
@[simp] theorem State.setBr_host : (s.setBr v).host = s.host := rfl
@[simp] theorem State.setBr_freeCtr : (s.setBr v).freeCtr = s.freeCtr := rfl
end

section
variable (s : State) (v : OffsetCache)
@[simp] theorem State.setRep_cfg : (s.setRep v).cfg = s.cfg := rfl
@[simp] theorem State.setRep_constructed : (s.setRep v).constructed = s.constructed := rfl
@[simp] theorem State.setRep_br : (s.setRep v).br = s.br := rfl
@[simp] theorem State.setRep_rep : (s.setRep v).rep = v := rfl
@[simp] theorem State.setRep_blk : (s.setRep v).blk = s.blk := rfl
@[simp] theorem State.setRep_main : (s.setRep v).main = s.main := rfl
@[simp] theorem State.setRep_len : (s.setRep v).len = s.len := rfl
@[simp] theorem State.setRep_align : (s.setRep v).align = s.align := rfl
@[simp] theorem State.setRep_pre : (s.setRep v).pre = s.pre := rfl
@[simp] theorem State.setRep_win : (s.setRep v).win = s.win := rfl
@[simp] theorem State.setRep_chunkOffset : (s.setRep v).chunkOffset = s.chunkOffset := rfl
@[simp] theorem State.setRep_decodedChunks : (s.setRep v).decodedChunks = s.decodedChunks := rfl
@[simp] theorem State.setRep_fault : (s.setRep v).fault = s.fault := rfl
@[simp] theorem State.setRep_cmd : (s.setRep v).cmd = s.cmd := rfl
@[simp] theorem State.setRep_out : (s.setRep v).out = s.out := rfl
@[simp] theorem State.setRep_phase : (s.setRep v).phase = s.phase := rfl
@[simp] theorem State.setRep_upd : (s.setRep v).upd = s.upd := rfl
@[simp] theorem State.setRep_hdr : (s.setRep v).hdr = s.hdr := rfl
@[simp] theorem State.setRep_elt : (s.setRep v).elt = s.elt := rfl
@[simp] theorem State.setRep_ret : (s.setRep v).ret = s.ret := rfl
@[simp] theorem State.setRep_result : (s.setRep v).result = s.result := rfl
@[simp] theorem State.setRep_host : (s.setRep v).host = s.host := rfl
@[simp] theorem State.setRep_freeCtr : (s.setRep v).freeCtr = s.freeCtr := rfl
end

section
variable (s : State) (v : Block)
@[simp] theorem State.setBlk_cfg : (s.setBlk v).cfg = s.cfg := rfl
@[simp] theorem State.setBlk_constructed : (s.setBlk v).constructed = s.constructed := rfl
@[simp] theorem State.setBlk_br : (s.setBlk v).br = s.br := rfl
@[simp] theorem State.setBlk_rep : (s.setBlk v).rep = s.rep := rfl
@[simp] theorem State.setBlk_blk : (s.setBlk v).blk = v := rfl
@[simp] theorem State.setBlk_main : (s.setBlk v).main = s.main := rfl
@[simp] theorem State.setBlk_len : (s.setBlk v).len = s.len := rfl
@[simp] theorem State.setBlk_align : (s.setBlk v).align = s.align := rfl
@[simp] theorem State.setBlk_pre : (s.setBlk v).pre = s.pre := rfl
@[simp] theorem State.setBlk_win : (s.setBlk v).win = s.win := rfl
@[simp] theorem State.setBlk_chunkOffset : (s.setBlk v).chunkOffset = s.chunkOffset := rfl
@[simp] theorem State.setBlk_decodedChunks : (s.setBlk v).decodedChunks = s.decodedChunks := rfl
@[simp] theorem State.setBlk_fault : (s.setBlk v).fault = s.fault := rfl
@[simp] theorem State.setBlk_cmd : (s.setBlk v).cmd = s.cmd := rfl
@[simp] theorem State.setBlk_out : (s.setBlk v).out = s.out := rfl
@[simp] theorem State.setBlk_phase : (s.setBlk v).phase = s.phase := rfl
@[simp] theorem State.setBlk_upd : (s.setBlk v).upd = s.upd := rfl
@[simp] theorem State.setBlk_hdr : (s.setBlk v).hdr = s.hdr := rfl
@[simp] theorem State.setBlk_elt : (s.setBlk v).elt = s.elt := rfl
@[simp] theorem State.setBlk_ret : (s.setBlk v).ret = s.ret := rfl
@[simp] theorem State.setBlk_result : (s.setBlk v).result = s.result := rfl
@[simp] theorem State.setBlk_host : (s.setBlk v).host = s.host := rfl
@[simp] theorem State.setBlk_freeCtr : (s.setBlk v).freeCtr = s.freeCtr := rfl
end

section
variable (s : State) (v : Window)
@[simp] theorem State.setWin_cfg : (s.setWin v).cfg = s.cfg := rfl
@[simp] theorem State.setWin_constructed : (s.setWin v).constructed = s.constructed := rfl
@[simp] theorem State.setWin_br : (s.setWin v).br = s.br := rfl
@[simp] theorem State.setWin_rep : (s.setWin v).rep = s.rep := rfl
@[simp] theorem State.setWin_blk : (s.setWin v).blk = s.blk := rfl
@[simp] theorem State.setWin_main : (s.setWin v).main = s.main := rfl
@[simp] theorem State.setWin_len : (s.setWin v).len = s.len := rfl
@[simp] theorem State.setWin_align : (s.setWin v).align = s.align := rfl
@[simp] theorem State.setWin_pre : (s.setWin v).pre = s.pre := rfl
@[simp] theorem State.setWin_win : (s.setWin v).win = v := rfl
@[simp] theorem State.setWin_chunkOffset : (s.setWin v).chunkOffset = s.chunkOffset := rfl
@[simp] theorem State.setWin_decodedChunks : (s.setWin v).decodedChunks = s.decodedChunks := rfl
@[simp] theorem State.setWin_fault : (s.setWin v).fault = s.fault := rfl
@[simp] theorem State.setWin_cmd : (s.setWin v).cmd = s.cmd := rfl
@[simp] theorem State.setWin_out : (s.setWin v).out = s.out := rfl
@[simp] theorem State.setWin_phase : (s.setWin v).phase = s.phase := rfl
@[simp] theorem State.setWin_upd : (s.setWin v).upd = s.upd := rfl
@[simp] theorem State.setWin_hdr : (s.setWin v).hdr = s.hdr := rfl
@[simp] theorem State.setWin_elt : (s.setWin v).elt = s.elt := rfl
@[simp] theorem State.setWin_ret : (s.setWin v).ret = s.ret := rfl
@[simp] theorem State.setWin_result : (s.setWin v).result = s.result := rfl
@[simp] theorem State.setWin_host : (s.setWin v).host = s.host := rfl
@[simp] theorem State.setWin_freeCtr : (s.setWin v).freeCtr = s.freeCtr := rfl
end

section
variable (s : State) (v : Command)
@[simp] theorem State.setCmd_cfg : (s.setCmd v).cfg = s.cfg := rfl
@[simp] theorem State.setCmd_constructed : (s.setCmd v).constructed = s.constructed := rfl
@[simp] theorem State.setCmd_br : (s.setCmd v).br = s.br := rfl
@[simp] theorem State.setCmd_rep : (s.setCmd v).rep = s.rep := rfl
@[simp] theorem State.setCmd_blk : (s.setCmd v).blk = s.blk := rfl
@[simp] theorem State.setCmd_main : (s.setCmd v).main = s.main := rfl
@[simp] theorem State.setCmd_len : (s.setCmd v).len = s.len := rfl
@[simp] theorem State.setCmd_align : (s.setCmd v).align = s.align := rfl
@[simp] theorem State.setCmd_pre : (s.setCmd v).pre = s.pre := rfl
@[simp] theorem State.setCmd_win : (s.setCmd v).win = s.win := rfl
@[simp] theorem State.setCmd_chunkOffset : (s.setCmd v).chunkOffset = s.chunkOffset := rfl
@[simp] theorem State.setCmd_decodedChunks : (s.setCmd v).decodedChunks = s.decodedChunks := rfl
@[simp] theorem State.setCmd_fault : (s.setCmd v).fault = s.fault := rfl
@[simp] theorem State.setCmd_cmd : (s.setCmd v).cmd = v := rfl
@[simp] theorem State.setCmd_out : (s.setCmd v).out = s.out := rfl
@[simp] theorem State.setCmd_phase : (s.setCmd v).phase = s.phase := rfl
@[simp] theorem State.setCmd_upd : (s.setCmd v).upd = s.upd := rfl
@[simp] theorem State.setCmd_hdr : (s.setCmd v).hdr = s.hdr := rfl
@[simp] theorem State.setCmd_elt : (s.setCmd v).elt = s.elt := rfl
@[simp] theorem State.setCmd_ret : (s.setCmd v).ret = s.ret := rfl
@[simp] theorem State.setCmd_result : (s.setCmd v).result = s.result := rfl
@[simp] theorem State.setCmd_host : (s.setCmd v).host = s.host := rfl
@[simp] theorem State.setCmd_freeCtr : (s.setCmd v).freeCtr = s.freeCtr := rfl
end

section
variable (s : State) (v : Phase)
@[simp] theorem State.setPhase_cfg : (s.setPhase v).cfg = s.cfg := rfl
@[simp] theorem State.setPhase_constructed : (s.setPhase v).constructed = s.constructed := rfl
@[simp] theorem State.setPhase_br : (s.setPhase v).br = s.br := rfl
@[simp] theorem State.setPhase_rep : (s.setPhase v).rep = s.rep := rfl
@[simp] theorem State.setPhase_blk : (s.setPhase v).blk = s.blk := rfl
@[simp] theorem State.setPhase_main : (s.setPhase v).main = s.main := rfl
@[simp] theorem State.setPhase_len : (s.setPhase v).len = s.len := rfl
@[simp] theorem State.setPhase_align : (s.setPhase v).align = s.align := rfl
@[simp] theorem State.setPhase_pre : (s.setPhase v).pre = s.pre := rfl
@[simp] theorem State.setPhase_win : (s.setPhase v).win = s.win := rfl
@[simp] theorem State.setPhase_chunkOffset : (s.setPhase v).chunkOffset = s.chunkOffset := rfl
@[simp] theorem State.setPhase_decodedChunks : (s.setPhase v).decodedChunks = s.decodedChunks := rfl
@[simp] theorem State.setPhase_fault : (s.setPhase v).fault = s.fault := rfl
@[simp] theorem State.setPhase_cmd : (s.setPhase v).cmd = s.cmd := rfl
@[simp] theorem State.setPhase_out : (s.setPhase v).out = s.out := rfl
@[simp] theorem State.setPhase_phase : (s.setPhase v).phase = v := rfl
@[simp] theorem State.setPhase_upd : (s.setPhase v).upd = s.upd := rfl
@[simp] theorem State.setPhase_hdr : (s.setPhase v).hdr = s.hdr := rfl
@[simp] theorem State.setPhase_elt : (s.setPhase v).elt = s.elt := rfl
@[simp] theorem State.setPhase_ret : (s.setPhase v).ret = s.ret := rfl
@[simp] theorem State.setPhase_result : (s.setPhase v).result = s.result := rfl
@[simp] theorem State.setPhase_host : (s.setPhase v).host = s.host := rfl
@[simp] theorem State.setPhase_freeCtr : (s.setPhase v).freeCtr = s.freeCtr := rfl
end

section
variable (s : State) (v : Update)
@[simp] theorem State.setUpd_cfg : (s.setUpd v).cfg = s.cfg := rfl
@[simp] theorem State.setUpd_constructed : (s.setUpd v).constructed = s.constructed := rfl
@[simp] theorem State.setUpd_br : (s.setUpd v).br = s.br := rfl
@[simp] theorem State.setUpd_rep : (s.setUpd v).rep = s.rep := rfl
@[simp] theorem State.setUpd_blk : (s.setUpd v).blk = s.blk := rfl
@[simp] theorem State.setUpd_main : (s.setUpd v).main = s.main := rfl
@[simp] theorem State.setUpd_len : (s.setUpd v).len = s.len := rfl
@[simp] theorem State.setUpd_align : (s.setUpd v).align = s.align := rfl
@[simp] theorem State.setUpd_pre : (s.setUpd v).pre = s.pre := rfl
@[simp] theorem State.setUpd_win : (s.setUpd v).win = s.win := rfl
@[simp] theorem State.setUpd_chunkOffset : (s.setUpd v).chunkOffset = s.chunkOffset := rfl
@[simp] theorem State.setUpd_decodedChunks : (s.setUpd v).decodedChunks = s.decodedChunks := rfl
@[simp] theorem State.setUpd_fault : (s.setUpd v).fault = s.fault := rfl
@[simp] theorem State.setUpd_cmd : (s.setUpd v).cmd = s.cmd := rfl
@[simp] theorem State.setUpd_out : (s.setUpd v).out = s.out := rfl
@[simp] theorem State.setUpd_phase : (s.setUpd v).phase = s.phase := rfl
@[simp] theorem State.setUpd_upd : (s.setUpd v).upd = v := rfl
@[simp] theorem State.setUpd_hdr : (s.setUpd v).hdr = s.hdr := rfl
@[simp] theorem State.setUpd_elt : (s.setUpd v).elt = s.elt := rfl
@[simp] theorem State.setUpd_ret : (s.setUpd v).ret = s.ret := rfl
@[simp] theorem State.setUpd_result : (s.setUpd v).result = s.result := rfl
@[simp] theorem State.setUpd_host : (s.setUpd v).host = s.host := rfl
@[simp] theorem State.setUpd_freeCtr : (s.setUpd v).freeCtr = s.freeCtr := rfl
end

section
variable (s : State) (v : Header)
@[simp] theorem State.setHdr_cfg : (s.setHdr v).cfg = s.cfg := rfl
@[simp] theorem State.setHdr_constructed : (s.setHdr v).constructed = s.constructed := rfl
@[simp] theorem State.setHdr_br : (s.setHdr v).br = s.br := rfl
@[simp] theorem State.setHdr_rep : (s.setHdr v).rep = s.rep := rfl
@[simp] theorem State.setHdr_blk : (s.setHdr v).blk = s.blk := rfl
@[simp] theorem State.setHdr_main : (s.setHdr v).main = s.main := rfl
@[simp] theorem State.setHdr_len : (s.setHdr v).len = s.len := rfl
@[simp] theorem State.setHdr_align : (s.setHdr v).align = s.align := rfl
@[simp] theorem State.setHdr_pre : (s.setHdr v).pre = s.pre := rfl
@[simp] theorem State.setHdr_win : (s.setHdr v).win = s.win := rfl
@[simp] theorem State.setHdr_chunkOffset : (s.setHdr v).chunkOffset = s.chunkOffset := rfl
@[simp] theorem State.setHdr_decodedChunks : (s.setHdr v).decodedChunks = s.decodedChunks := rfl
@[simp] theorem State.setHdr_fault : (s.setHdr v).fault = s.fault := rfl
@[simp] theorem State.setHdr_cmd : (s.setHdr v).cmd = s.cmd := rfl
@[simp] theorem State.setHdr_out : (s.setHdr v).out = s.out := rfl
@[simp] theorem State.setHdr_phase : (s.setHdr v).phase = s.phase := rfl
@[simp] theorem State.setHdr_upd : (s.setHdr v).upd = s.upd := rfl
@[simp] theorem State.setHdr_hdr : (s.setHdr v).hdr = v := rfl
@[simp] theorem State.setHdr_elt : (s.setHdr v).elt = s.elt := rfl
@[simp] theorem State.setHdr_ret : (s.setHdr v).ret = s.ret := rfl
@[simp] theorem State.setHdr_result : (s.setHdr v).result = s.result := rfl
@[simp] theorem State.setHdr_host : (s.setHdr v).host = s.host := rfl
@[simp] theorem State.setHdr_freeCtr : (s.setHdr v).freeCtr = s.freeCtr := rfl
end

section
variable (s : State) (v : MatchLocals)
@[simp] theorem State.setElt_cfg : (s.setElt v).cfg = s.cfg := rfl
@[simp] theorem State.setElt_constructed : (s.setElt v).constructed = s.constructed := rfl
@[simp] theorem State.setElt_br : (s.setElt v).br = s.br := rfl
@[simp] theorem State.setElt_rep : (s.setElt v).rep = s.rep := rfl
@[simp] theorem State.setElt_blk : (s.setElt v).blk = s.blk := rfl
@[simp] theorem State.setElt_main : (s.setElt v).main = s.main := rfl
@[simp] theorem State.setElt_len : (s.setElt v).len = s.len := rfl
@[simp] theorem State.setElt_align : (s.setElt v).align = s.align := rfl
@[simp] theorem State.setElt_pre : (s.setElt v).pre = s.pre := rfl
@[simp] theorem State.setElt_win : (s.setElt v).win = s.win := rfl
@[simp] theorem State.setElt_chunkOffset : (s.setElt v).chunkOffset = s.chunkOffset := rfl
@[simp] theorem State.setElt_decodedChunks : (s.setElt v).decodedChunks = s.decodedChunks := rfl
@[simp] theorem State.setElt_fault : (s.setElt v).fault = s.fault := rfl
@[simp] theorem State.setElt_cmd : (s.setElt v).cmd = s.cmd := rfl
@[simp] theorem State.setElt_out : (s.setElt v).out = s.out := rfl
@[simp] theorem State.setElt_phase : (s.setElt v).phase = s.phase := rfl
@[simp] theorem State.setElt_upd : (s.setElt v).upd = s.upd := rfl
@[simp] theorem State.setElt_hdr : (s.setElt v).hdr = s.hdr := rfl
@[simp] theorem State.setElt_elt : (s.setElt v).elt = v := rfl
@[simp] theorem State.setElt_ret : (s.setElt v).ret = s.ret := rfl
@[simp] theorem State.setElt_result : (s.setElt v).result = s.result := rfl
@[simp] theorem State.setElt_host : (s.setElt v).host = s.host := rfl
@[simp] theorem State.setElt_freeCtr : (s.setElt v).freeCtr = s.freeCtr := rfl
end

section
variable (s : State) (v : Returned)
@[simp] theorem State.setRet_cfg : (s.setRet v).cfg = s.cfg := rfl
@[simp] theorem State.setRet_constructed : (s.setRet v).constructed = s.constructed := rfl
@[simp] theorem State.setRet_br : (s.setRet v).br = s.br := rfl
@[simp] theorem State.setRet_rep : (s.setRet v).rep = s.rep := rfl
@[simp] theorem State.setRet_blk : (s.setRet v).blk = s.blk := rfl
@[simp] theorem State.setRet_main : (s.setRet v).main = s.main := rfl
@[simp] theorem State.setRet_len : (s.setRet v).len = s.len := rfl
@[simp] theorem State.setRet_align : (s.setRet v).align = s.align := rfl
@[simp] theorem State.setRet_pre : (s.setRet v).pre = s.pre := rfl
@[simp] theorem State.setRet_win : (s.setRet v).win = s.win := rfl
@[simp] theorem State.setRet_chunkOffset : (s.setRet v).chunkOffset = s.chunkOffset := rfl
@[simp] theorem State.setRet_decodedChunks : (s.setRet v).decodedChunks = s.decodedChunks := rfl
@[simp] theorem State.setRet_fault : (s.setRet v).fault = s.fault := rfl
@[simp] theorem State.setRet_cmd : (s.setRet v).cmd = s.cmd := rfl
@[simp] theorem State.setRet_out : (s.setRet v).out = s.out := rfl
@[simp] theorem State.setRet_phase : (s.setRet v).phase = s.phase := rfl
@[simp] theorem State.setRet_upd : (s.setRet v).upd = s.upd := rfl
@[simp] theorem State.setRet_hdr : (s.setRet v).hdr = s.hdr := rfl
@[simp] theorem State.setRet_elt : (s.setRet v).elt = s.elt := rfl
@[simp] theorem State.setRet_ret : (s.setRet v).ret = v := rfl
@[simp] theorem State.setRet_result : (s.setRet v).result = s.result := rfl
@[simp] theorem State.setRet_host : (s.setRet v).host = s.host := rfl
@[simp] theorem State.setRet_freeCtr : (s.setRet v).freeCtr = s.freeCtr := rfl
end

@[simp] theorem HostResult.status_fault (code info : BitVec 4) : (HostResult.fault code info).status = (code, info) := rfl
@[simp] theorem HostResult.status_refused (r : RefusalReason) : (HostResult.refused r).status = (10, r.info) := by cases r <;> rfl

section
variable (s : State) (v : HostResult)
@[simp] theorem State.setResult_cfg : (s.setResult v).cfg = s.cfg := rfl
@[simp] theorem State.setResult_constructed : (s.setResult v).constructed = s.constructed := rfl
@[simp] theorem State.setResult_br : (s.setResult v).br = s.br := rfl
@[simp] theorem State.setResult_rep : (s.setResult v).rep = s.rep := rfl
@[simp] theorem State.setResult_blk : (s.setResult v).blk = s.blk := rfl
@[simp] theorem State.setResult_main : (s.setResult v).main = s.main := rfl
@[simp] theorem State.setResult_len : (s.setResult v).len = s.len := rfl
@[simp] theorem State.setResult_align : (s.setResult v).align = s.align := rfl
@[simp] theorem State.setResult_pre : (s.setResult v).pre = s.pre := rfl
@[simp] theorem State.setResult_win : (s.setResult v).win = s.win := rfl
@[simp] theorem State.setResult_chunkOffset : (s.setResult v).chunkOffset = s.chunkOffset := rfl
@[simp] theorem State.setResult_decodedChunks : (s.setResult v).decodedChunks = s.decodedChunks := rfl
@[simp] theorem State.setResult_fault : (s.setResult v).fault = s.fault := rfl
@[simp] theorem State.setResult_cmd : (s.setResult v).cmd = s.cmd := rfl
@[simp] theorem State.setResult_out : (s.setResult v).out = s.out := rfl
@[simp] theorem State.setResult_phase : (s.setResult v).phase = s.phase := rfl
@[simp] theorem State.setResult_upd : (s.setResult v).upd = s.upd := rfl
@[simp] theorem State.setResult_hdr : (s.setResult v).hdr = s.hdr := rfl
@[simp] theorem State.setResult_elt : (s.setResult v).elt = s.elt := rfl
@[simp] theorem State.setResult_ret : (s.setResult v).ret = s.ret := rfl
@[simp] theorem State.setResult_result : (s.setResult v).result = v := rfl
@[simp] theorem State.setResult_host : (s.setResult v).host = s.host := rfl
@[simp] theorem State.setResult_freeCtr : (s.setResult v).freeCtr = s.freeCtr := rfl
end

section
variable (s : State) (k : TableKind) (v : Table)
@[simp] theorem State.setTable_cfg : (s.setTable k v).cfg = s.cfg := by cases k <;> rfl
@[simp] theorem State.setTable_constructed : (s.setTable k v).constructed = s.constructed := by cases k <;> rfl
@[simp] theorem State.setTable_br : (s.setTable k v).br = s.br := by cases k <;> rfl
@[simp] theorem State.setTable_rep : (s.setTable k v).rep = s.rep := by cases k <;> rfl
@[simp] theorem State.setTable_blk : (s.setTable k v).blk = s.blk := by cases k <;> rfl
@[simp] theorem State.setTable_win : (s.setTable k v).win = s.win := by cases k <;> rfl
@[simp] theorem State.setTable_chunkOffset : (s.setTable k v).chunkOffset = s.chunkOffset := by cases k <;> rfl
@[simp] theorem State.setTable_decodedChunks : (s.setTable k v).decodedChunks = s.decodedChunks := by cases k <;> rfl
@[simp] theorem State.setTable_fault : (s.setTable k v).fault = s.fault := by cases k <;> rfl
@[simp] theorem State.setTable_cmd : (s.setTable k v).cmd = s.cmd := by cases k <;> rfl
@[simp] theorem State.setTable_out : (s.setTable k v).out = s.out := by cases k <;> rfl
@[simp] theorem State.setTable_phase : (s.setTable k v).phase = s.phase := by cases k <;> rfl
@[simp] theorem State.setTable_upd : (s.setTable k v).upd = s.upd := by cases k <;> rfl
@[simp] theorem State.setTable_hdr : (s.setTable k v).hdr = s.hdr := by cases k <;> rfl
@[simp] theorem State.setTable_elt : (s.setTable k v).elt = s.elt := by cases k <;> rfl
@[simp] theorem State.setTable_ret : (s.setTable k v).ret = s.ret := by cases k <;> rfl
@[simp] theorem State.setTable_result : (s.setTable k v).result = s.result := by cases k <;> rfl
@[simp] theorem State.setTable_host : (s.setTable k v).host = s.host := by cases k <;> rfl
@[simp] theorem State.setTable_freeCtr : (s.setTable k v).freeCtr = s.freeCtr := by cases k <;> rfl
@[simp] theorem State.setTable_table_same : (s.setTable k v).table k = v := by cases k <;> rfl
theorem State.setTable_table_other (j : TableKind) (h : j ≠ k) : (s.setTable k v).table j = s.table j := by
  cases k <;> cases j <;> first | rfl | exact absurd rfl h
@[simp] theorem State.setBr_table (w : Reader) : (s.setBr w).table k = s.table k := by cases k <;> rfl
@[simp] theorem State.setRep_table (w : OffsetCache) : (s.setRep w).table k = s.table k := by cases k <;> rfl
@[simp] theorem State.setBlk_table (w : Block) : (s.setBlk w).table k = s.table k := by cases k <;> rfl
@[simp] theorem State.setWin_table (w : Window) : (s.setWin w).table k = s.table k := by cases k <;> rfl
@[simp] theorem State.setCmd_table (w : Command) : (s.setCmd w).table k = s.table k := by cases k <;> rfl
@[simp] theorem State.setPhase_table (w : Phase) : (s.setPhase w).table k = s.table k := by cases k <;> rfl
@[simp] theorem State.setUpd_table (w : Update) : (s.setUpd w).table k = s.table k := by cases k <;> rfl
@[simp] theorem State.setHdr_table (w : Header) : (s.setHdr w).table k = s.table k := by cases k <;> rfl
@[simp] theorem State.setElt_table (w : MatchLocals) : (s.setElt w).table k = s.table k := by cases k <;> rfl
@[simp] theorem State.setRet_table (w : Returned) : (s.setRet w).table k = s.table k := by cases k <;> rfl
@[simp] theorem State.setResult_table (w : HostResult) : (s.setResult w).table k = s.table k := by cases k <;> rfl
end

section
variable (k : FaultKind) (s : State)
/-- Fault entry keeps the configuration, `CONSTRUCTED` and the host's side, and writes `FAULT.*` and the result (R313). -/
@[simp] theorem takeFault_cfg : (takeFault k s).cfg = s.cfg := rfl
@[simp] theorem takeFault_constructed : (takeFault k s).constructed = s.constructed := rfl
@[simp] theorem takeFault_host : (takeFault k s).host = s.host := rfl
@[simp] theorem takeFault_fault : (takeFault k s).fault = ⟨true, k.code, k.info⟩ := rfl
@[simp] theorem takeFault_phase : (takeFault k s).phase = .idle := rfl
@[simp] theorem takeFault_result : (takeFault k s).result = .fault k.code k.info := rfl
@[simp] theorem takeFault_freeCtr : (takeFault k s).freeCtr = s.freeCtr + 1 := rfl

/-- The state a fault leaves depends on nothing but the configuration, `CONSTRUCTED`, the host's side and the free values drawn. -/
theorem takeFault_congr {t : State} (hc : t.cfg = s.cfg) (hk : t.constructed = s.constructed) (hh : t.host = s.host)
    (hf : t.freeCtr = s.freeCtr) : takeFault k t = takeFault k s := by
  simp only [takeFault, State.freed, hc, hk, hh, hf]
end

end Sys2Proof.Machine
end

