-- ==== Sys2Proof/Laws/Op.lean ====
section
/-! SUPPORT. Laws/Op.lean: how an operation made of others ends. -/

namespace Sys2Proof.Machine

section
variable {α β : Type}

@[simp] theorem Op.pure_apply (a : α) (s : State) : Op.pure a s = .ok a s := rfl
@[simp] theorem Op.raise_apply (k : FaultKind) (s : State) : (Op.raise k : Op α) s = .raise k := rfl
@[simp] theorem Op.stuck_apply (r : Fault) (s : State) : (Op.stuck r : Op α) s = .stuck r := rfl
@[simp] theorem Op.get_apply (f : State → α) (s : State) : Op.get f s = .ok (f s) s := rfl
@[simp] theorem Op.modify_apply (f : State → State) (s : State) : Op.modify f s = .ok () (f s) := rfl

theorem Op.bind_of_ok {m : Op α} {f : α → Op β} {s t : State} {a : α} (h : m s = .ok a t) : m.bind f s = f a t := by
  simp [Op.bind, h]

theorem Op.bind_of_raise {m : Op α} {f : α → Op β} {s : State} {k : FaultKind} (h : m s = .raise k) : m.bind f s = .raise k := by
  simp [Op.bind, h]

theorem Op.bind_of_stuck {m : Op α} {f : α → Op β} {s : State} {r : Fault} (h : m s = .stuck r) : m.bind f s = .stuck r := by
  simp [Op.bind, h]

theorem Op.andThen_of_ok {m : Op α} {n : Op β} {s t : State} {a : α} (h : m s = .ok a t) : m.andThen n s = n t :=
  Op.bind_of_ok h

/-- A sequence completes exactly when its first part does and the rest completes from there. -/
theorem Op.bind_ok_iff {m : Op α} {f : α → Op β} {s u : State} {b : β} :
    m.bind f s = .ok b u ↔ ∃ a t, m s = .ok a t ∧ f a t = .ok b u := by
  constructor
  · intro h
    cases hm : m s with
    | ok a t => exact ⟨a, t, rfl, by rwa [Op.bind_of_ok hm] at h⟩
    | raise k => rw [Op.bind_of_raise hm] at h; cases h
    | stuck r => rw [Op.bind_of_stuck hm] at h; cases h
  · rintro ⟨a, t, hm, hf⟩
    rwa [Op.bind_of_ok hm]

theorem Op.andThen_ok_iff {m : Op α} {n : Op β} {s u : State} {b : β} :
    m.andThen n s = .ok b u ↔ ∃ a t, m s = .ok a t ∧ n t = .ok b u := Op.bind_ok_iff

/-- A sequence faults where its first part does, or where the rest does. -/
theorem Op.bind_raise_iff {m : Op α} {f : α → Op β} {s : State} {k : FaultKind} :
    m.bind f s = .raise k ↔ m s = .raise k ∨ ∃ a t, m s = .ok a t ∧ f a t = .raise k := by
  cases hm : m s with
  | ok a t => simp [Op.bind_of_ok hm]
  | raise j => simp [Op.bind_of_raise hm]
  | stuck r => simp [Op.bind_of_stuck hm]

/-- Sequencing is associative. -/
theorem Op.bind_assoc {γ : Type} (m : Op α) (f : α → Op β) (g : β → Op γ) :
    (m.bind f).bind g = m.bind fun a => (f a).bind g := by
  funext s
  cases hm : m s with
  | ok a t => rw [Op.bind_of_ok hm, Op.bind, Op.bind_of_ok hm]; rfl
  | raise k => rw [Op.bind_of_raise hm, Op.bind_of_raise (Op.bind_of_raise hm)]
  | stuck r => rw [Op.bind_of_stuck hm, Op.bind_of_stuck (Op.bind_of_stuck hm)]

end

section
variable {m : Op Unit} {s t : State}

theorem Op.run_of_ok (h : m s = .ok () t) : m.run s = .next t := by simp [Op.run, h]

theorem Op.run_of_raise {k : FaultKind} (h : m s = .raise k) : m.run s = .next (takeFault k s) := by simp [Op.run, h]

theorem Op.run_of_stuck {r : Fault} (h : m s = .stuck r) : m.run s = .fault r := by simp [Op.run, h]

/-- An instruction that answers a next state has completed or has taken a fault. -/
theorem Op.run_next (h : m.run s = .next t) : m s = .ok () t ∨ ∃ k, m s = .raise k ∧ t = takeFault k s := by
  cases hm : m s with
  | ok a u => left; rw [Op.run_of_ok hm] at h; cases h; rfl
  | raise k => right; rw [Op.run_of_raise hm] at h; cases h; exact ⟨k, rfl, rfl⟩
  | stuck r => rw [Op.run_of_stuck hm] at h; cases h

/-- No operation is refused by `run`. -/
theorem Op.run_not_refused {r : Refusal} : m.run s ≠ .refused r := by
  cases hm : m s with
  | ok a u => simp [Op.run_of_ok hm]
  | raise k => simp [Op.run_of_raise hm]
  | stuck q => simp [Op.run_of_stuck hm]

theorem Op.runRet_of_ok {α : Type} {n : Op α} {f : α → Returned} {a : α} (h : n s = .ok a t) :
    n.runRet f s = .next (t.setRet (f a)) := Op.run_of_ok (by rw [Op.bind_of_ok h]; rfl)

theorem Op.runRet_of_raise {α : Type} {n : Op α} {f : α → Returned} {k : FaultKind} (h : n s = .raise k) :
    n.runRet f s = .next (takeFault k s) := Op.run_of_raise (Op.bind_of_raise h)

/-- A reader operation changes the reader alone. -/
theorem onReader_ok {α : Type} {f : Reader → Except FaultKind (α × Reader)} {a : α} (h : onReader f s = .ok a t) :
    ∃ r, f s.br = .ok (a, r) ∧ t = s.setBr r := by
  unfold onReader at h
  split at h
  · next a' r hf => cases h; exact ⟨r, hf, rfl⟩
  · cases h

theorem onReader_of_ok {α : Type} {f : Reader → Except FaultKind (α × Reader)} {a : α} {r : Reader} (h : f s.br = .ok (a, r)) :
    onReader f s = .ok a (s.setBr r) := by simp [onReader, h]

theorem onReader_of_error {α : Type} {f : Reader → Except FaultKind (α × Reader)} {k : FaultKind} (h : f s.br = .error k) :
    onReader f s = .raise k := by simp [onReader, h]

end

end Sys2Proof.Machine
end

