-- ==== Sys2Proof/Laws/Reader.lean ====
section
/-! SUPPORT. Laws/Reader.lean: the bit reads take the stream from its head; nothing else of the reader moves. -/

namespace Sys2Proof

@[simp] theorem fieldBits_length : ∀ (n v : Nat), (fieldBits n v).length = n
  | 0, _ => rfl
  | n + 1, v => by simp [fieldBits, fieldBits_length n v]

theorem bitsValue_append (a b : List Bool) : bitsValue (a ++ b) = bitsValue a * 2 ^ b.length + bitsValue b := by
  have h : ∀ (l : List Bool) (acc : Nat), l.foldl (fun acc b => 2 * acc + b.toNat) acc = acc * 2 ^ l.length + bitsValue l := by
    intro l
    induction l with
    | nil => intro acc; simp [bitsValue]
    | cons x l ih =>
      intro acc
      simp only [List.foldl_cons, bitsValue, List.length_cons]
      rw [ih, ih (2 * 0 + x.toNat), Nat.pow_succ]
      ring
  rw [bitsValue, List.foldl_append, h b]
  rfl

theorem bitsValue_cons (x : Bool) (l : List Bool) : bitsValue (x :: l) = x.toNat * 2 ^ l.length + bitsValue l :=
  bitsValue_append [x] l |>.trans (by simp [bitsValue])

theorem bitsValue_lt : ∀ l : List Bool, bitsValue l < 2 ^ l.length
  | [] => by simp [bitsValue]
  | x :: l => by
    have := bitsValue_lt l
    rw [bitsValue_cons, List.length_cons, Nat.pow_succ]
    cases x <;> simp <;> omega

theorem bitsValue_fieldBits : ∀ (n v : Nat), bitsValue (fieldBits n v) = v % 2 ^ n
  | 0, v => by simp [fieldBits, bitsValue, Nat.mod_one]
  | n + 1, v => by
    rw [fieldBits, bitsValue_cons, fieldBits_length, bitsValue_fieldBits n v, Nat.pow_succ, Nat.mod_mul, Nat.testBit_eq_decide_div_mod_eq]
    rcases Nat.mod_two_eq_zero_or_one (v / 2 ^ n) with h | h <;> simp [h]
    ring

/-- A field and its value determine each other. -/
theorem fieldBits_bitsValue : ∀ l : List Bool, fieldBits l.length (bitsValue l) = l
  | [] => rfl
  | x :: l => by
    have hlt := bitsValue_lt l
    have h : ∀ (n : Nat), n ≤ l.length → fieldBits n (x.toNat * 2 ^ l.length + bitsValue l) = fieldBits n (bitsValue l) := by
      intro n
      induction n with
      | zero => intro _; rfl
      | succ n ih =>
        intro hn
        have : (x.toNat * 2 ^ l.length + bitsValue l).testBit n = (bitsValue l).testBit n := by
          rw [Nat.mul_comm, Nat.testBit_two_pow_mul_add _ hlt, if_pos (by omega)]
        rw [fieldBits, fieldBits, ih (by omega), this]
    have htop : (x.toNat * 2 ^ l.length + bitsValue l).testBit l.length = x := by
      rw [Nat.mul_comm, Nat.testBit_two_pow_mul_add _ hlt]
      cases x <;> simp
    rw [bitsValue_cons, List.length_cons, fieldBits, htop, h _ (Nat.le_refl _), fieldBits_bitsValue l]

end Sys2Proof

namespace Sys2Proof.Machine

@[simp] theorem Reader.wordBits_length (r : Reader) : ∀ k a : Nat, (r.wordBits k a).length = 16 * k
  | 0, _ => rfl
  | k + 1, a => by simp [Reader.wordBits, Reader.wordBits_length r k]; ring

@[simp] theorem Reader.pending_length (r : Reader) : r.pending.length = r.bitsLeft := by simp [Reader.pending]

/-- How many bits are left: the pending ones and those of the whole words that remain. -/
theorem Reader.stream_length (r : Reader) : r.stream.length = r.bitsLeft + 16 * ((r.len - r.bytePos) / 2) := by simp [Reader.stream]

theorem Reader.wordBits_congr {r q : Reader} (h : q.data = r.data) : ∀ k a : Nat, q.wordBits k a = r.wordBits k a
  | 0, _ => rfl
  | k + 1, a => by simp only [Reader.wordBits, Reader.wordAt, Reader.byteAt, h, Reader.wordBits_congr h k]

/-- The next word, where one is wanted and whole (R131). -/
theorem Reader.fetchWord_ok {r : Reader} (h : r.bytePos + 2 ≤ r.len) :
    r.fetchWord = .ok { r with currentWord := r.wordAt r.bytePos, bitsLeft := 16, bytePos := r.bytePos + 2 } := by
  rw [Reader.fetchWord, if_neg (by omega)]

theorem Reader.fetchWord_error {r : Reader} (h : r.len < r.bytePos + 2) : r.fetchWord = .error (.outOfBounds .wordFetch) := by
  rw [Reader.fetchWord, if_pos (by omega)]

theorem Reader.pending_succ {r : Reader} {k : Nat} (h : r.bitsLeft = k + 1) :
    r.pending = r.currentWord.getLsbD k :: ({ r with bitsLeft := k } : Reader).pending := by
  simp only [Reader.pending, h, fieldBits]
  rfl

/-- A bit from a word fetched for it (R25, R131). -/
theorem Reader.readBit_fetch {r : Reader} (h0 : r.bitsLeft = 0) (h : r.bytePos + 2 ≤ r.len) :
    r.readBit = .ok ((r.wordAt r.bytePos).getLsbD 15,
      { r with currentWord := r.wordAt r.bytePos, bitsLeft := 15, bytePos := r.bytePos + 2 }) := by
  rw [Reader.readBit, if_pos h0, Reader.fetchWord_ok h]
  rfl

theorem Reader.readBit_past {r : Reader} (h0 : r.bitsLeft = 0) (h : r.len < r.bytePos + 2) :
    r.readBit = .error (.outOfBounds .wordFetch) := by
  rw [Reader.readBit, if_pos h0, Reader.fetchWord_error h]

/-- A pending bit (R25). -/
theorem Reader.readBit_pending {r : Reader} (h0 : r.bitsLeft ≠ 0) :
    r.readBit = .ok (r.currentWord.getLsbD (r.bitsLeft - 1), { r with bitsLeft := r.bitsLeft - 1 }) := by
  rw [Reader.readBit, if_neg h0]

/-- The next bit is the head of the stream (R25, R132). -/
theorem Reader.readBit_cons {r : Reader} {b : Bool} {rest : List Bool} (h : r.stream = b :: rest) :
    ∃ q, r.readBit = .ok (b, q) ∧ q.stream = rest ∧ q.data = r.data ∧ q.len = r.len ∧
      q.bytePos = r.bytePos + 2 * (if r.bitsLeft = 0 then 1 else 0) ∧
      q.bitsLeft + 1 = r.bitsLeft + 16 * (if r.bitsLeft = 0 then 1 else 0) := by
  by_cases h0 : r.bitsLeft = 0
  · have hlen : r.bytePos + 2 ≤ r.len := by
      have := congrArg List.length h
      rw [Reader.stream_length, List.length_cons] at this
      omega
    obtain ⟨k, hk⟩ : ∃ k, (r.len - r.bytePos) / 2 = k + 1 := ⟨(r.len - r.bytePos) / 2 - 1, by omega⟩
    have hs : r.stream = fieldBits 16 (r.wordAt r.bytePos).toNat ++ r.wordBits k (r.bytePos + 2) := by
      rw [Reader.stream, Reader.pending, h0, hk]; rfl
    refine ⟨{ r with currentWord := r.wordAt r.bytePos, bitsLeft := 15, bytePos := r.bytePos + 2 }, ?_, ?_, rfl, rfl, ?_, ?_⟩
    · rw [Reader.readBit_fetch h0 hlen]
      rw [hs, fieldBits] at h
      simp only [List.cons_append, List.cons.injEq] at h
      rw [← h.1]
      rfl
    · rw [hs, fieldBits] at h
      simp only [List.cons_append, List.cons.injEq] at h
      rw [← h.2, Reader.stream]
      have hk' : (r.len - (r.bytePos + 2)) / 2 = k := by omega
      simp only [hk']
      exact congr (congrArg _ rfl) (Reader.wordBits_congr (r := r) (by rfl) _ _)
    · simp [h0]
    · simp [h0]
  · obtain ⟨k, hk⟩ : ∃ k, r.bitsLeft = k + 1 := ⟨r.bitsLeft - 1, by omega⟩
    have hs := Reader.pending_succ hk
    rw [Reader.stream, hs, List.cons_append, List.cons.injEq] at h
    refine ⟨{ r with bitsLeft := k }, ?_, ?_, rfl, rfl, ?_, ?_⟩
    · rw [Reader.readBit_pending h0, ← h.1]
      simp [hk]
    · rw [← h.2, Reader.stream]
      exact congr (congrArg _ rfl) (Reader.wordBits_congr (r := r) (by rfl) _ _)
    · simp [h0]
    · simp [hk]

/-- With the stream used up the next bit faults (R139). -/
theorem Reader.readBit_nil {r : Reader} (h : r.stream = []) : r.readBit = .error (.outOfBounds .wordFetch) := by
  have := congrArg List.length h
  rw [Reader.stream_length, List.length_nil] at this
  have h0 : r.bitsLeft = 0 := by omega
  exact Reader.readBit_past h0 (by omega)

theorem Reader.Advanced.zero (r : Reader) : r.Advanced r 0 := ⟨by simp, rfl, rfl, by simp, by simp⟩

theorem Reader.readBitsFrom_ok : ∀ {n acc : Nat} {r : Reader}, n ≤ r.stream.length →
    ∃ q, Reader.readBitsFrom n acc r = .ok (acc * 2 ^ n + bitsValue (r.stream.take n), q) ∧ r.Advanced q n
  | 0, acc, r, _ => ⟨r, by simp [Reader.readBitsFrom, bitsValue], .zero r⟩
  | n + 1, acc, r, h => by
    match hs : r.stream with
    | [] => rw [hs] at h; simp at h
    | b :: rest =>
      obtain ⟨q, hq, hrest, hd, hl, hp, hb⟩ := Reader.readBit_cons hs
      have hn : n ≤ q.stream.length := by rw [hrest]; rw [hs, List.length_cons] at h; omega
      obtain ⟨p, hp', ha⟩ := Reader.readBitsFrom_ok (n := n) (acc := 2 * acc + b.toNat) hn
      refine ⟨p, ?_, ?_⟩
      · rw [Reader.readBitsFrom, hq]
        simp only
        rw [hp', hrest, List.take_succ_cons, bitsValue_cons, List.length_take, Nat.pow_succ]
        rw [hrest] at hn
        rw [min_eq_left hn]
        congr 2
        ring
      · have h1 := ha.fetched
        have h2 := ha.counted
        refine ⟨by rw [ha.stream, hrest, hs, List.drop_succ_cons], ha.data.trans hd, ha.len.trans hl, ?_, ?_⟩ <;>
          by_cases h0 : r.bitsLeft = 0 <;> simp only [h0, if_true, if_false] at hp hb ⊢ <;> omega

theorem Reader.readBitsFrom_error : ∀ {n acc : Nat} {r : Reader}, r.stream.length < n →
    Reader.readBitsFrom n acc r = .error (.outOfBounds .wordFetch)
  | 0, _, _, h => by simp at h
  | n + 1, acc, r, h => by
    match hs : r.stream with
    | [] => rw [Reader.readBitsFrom, Reader.readBit_nil hs]
    | b :: rest =>
      obtain ⟨q, hq, hrest, -⟩ := Reader.readBit_cons hs
      rw [Reader.readBitsFrom, hq]
      exact Reader.readBitsFrom_error (by rw [hrest]; rw [hs, List.length_cons] at h; omega)

/-- `readBits(n)` takes the next `n` stream bits, first one most significant (R65, R132). -/
theorem Reader.readBits_ok {r : Reader} {n : Nat} (h : n ≤ r.stream.length) :
    ∃ q, r.readBits n = .ok (bitsValue (r.stream.take n), q) ∧ r.Advanced q n := by
  obtain ⟨q, hq, ha⟩ := Reader.readBitsFrom_ok (acc := 0) h
  exact ⟨q, by rw [Reader.readBits, hq]; simp, ha⟩

theorem Reader.readBits_error {r : Reader} {n : Nat} (h : r.stream.length < n) :
    r.readBits n = .error (.outOfBounds .wordFetch) := Reader.readBitsFrom_error h

/-- Everything a `readBits` can do. -/
theorem Reader.readBits_cases (r : Reader) (n : Nat) :
    (n ≤ r.stream.length ∧ ∃ q, r.readBits n = .ok (bitsValue (r.stream.take n), q) ∧ r.Advanced q n) ∨
      (r.stream.length < n ∧ r.readBits n = .error (.outOfBounds .wordFetch)) := by
  rcases Nat.lt_or_ge r.stream.length n with h | h
  · exact .inr ⟨h, Reader.readBits_error h⟩
  · exact .inl ⟨h, Reader.readBits_ok h⟩

theorem Reader.readBits_eq_ok {r q : Reader} {n v : Nat} (h : r.readBits n = .ok (v, q)) :
    n ≤ r.stream.length ∧ v = bitsValue (r.stream.take n) ∧ r.Advanced q n := by
  rcases Reader.readBits_cases r n with ⟨hn, p, hp, ha⟩ | ⟨-, he⟩
  · rw [hp] at h; cases h; exact ⟨hn, rfl, ha⟩
  · rw [he] at h; cases h

/-- The value of a `readBits(n)` has `n` bits. -/
theorem Reader.readBits_lt {r q : Reader} {n v : Nat} (h : r.readBits n = .ok (v, q)) : v < 2 ^ n := by
  obtain ⟨hn, rfl, -⟩ := Reader.readBits_eq_ok h
  have := bitsValue_lt (r.stream.take n)
  rwa [List.length_take, min_eq_left hn] at this

/-- A successful read leaves at most 16 bits pending, if it started so (R24). -/
theorem Reader.Advanced.bitsLeft_le {r q : Reader} {n : Nat} (h : r.Advanced q n) (hr : r.bitsLeft ≤ 16) : q.bitsLeft ≤ 16 := by
  have := h.counted
  omega

/-- A read of present bits keeps the cursor inside the input (R27). -/
theorem Reader.Advanced.bytePos_le {r q : Reader} {n : Nat} (h : r.Advanced q n) (hn : n ≤ r.stream.length) (hr : r.bytePos ≤ r.len) :
    q.bytePos ≤ q.len := by
  have h1 := h.fetched
  have h2 := h.len
  rw [Reader.stream_length] at hn
  omega

/-- `readBits` splits anywhere (R132 (a)). -/
theorem Reader.readBitsFrom_add : ∀ (a : Nat) {b acc : Nat} {r : Reader},
    Reader.readBitsFrom (a + b) acc r =
      match Reader.readBitsFrom a acc r with
      | .ok (v, q) => Reader.readBitsFrom b v q
      | .error k => .error k
  | 0, b, acc, r => by simp [Reader.readBitsFrom]
  | a + 1, b, acc, r => by
    rw [show a + 1 + b = (a + b) + 1 by omega, Reader.readBitsFrom, Reader.readBitsFrom]
    cases r.readBit with
    | error k => rfl
    | ok p => exact Reader.readBitsFrom_add a

end Sys2Proof.Machine
end

