-- ==== Sys2Proof/Laws/Peek.lean ====
section
/-! SUPPORT. Laws/Peek.lean: a peek sees the bits a read would take; with 16 bits or fewer it sees zeros past the end. -/

namespace Sys2Proof.Machine

theorem Reader.peekBitsFrom_pending (r : Reader) (t : Bool) :
    ∀ {n acc k p : Nat} {w : Word16}, n ≤ k →
      r.peekBitsFrom t n acc w k p = .ok (acc * 2 ^ n + bitsValue ((fieldBits k w.toNat).take n))
  | 0, acc, k, p, w, _ => by simp [Reader.peekBitsFrom, bitsValue]
  | n + 1, acc, 0, p, w, h => by omega
  | n + 1, acc, k + 1, p, w, h => by
    rw [Reader.peekBitsFrom, if_neg (by omega), Nat.add_sub_cancel, Reader.peekBitsFrom_pending r t (by omega), fieldBits,
      List.take_succ_cons, bitsValue_cons, List.length_take, fieldBits_length, min_eq_left (by omega), Nat.pow_succ]
    congr 1
    have : w.getLsbD k = w.toNat.testBit k := rfl
    rw [this]
    ring

theorem Reader.peekBitsFrom_tolerant (r : Reader) :
    ∀ {n acc k p : Nat} {w : Word16}, n ≤ k + 16 →
      r.peekBitsFrom true n acc w k p =
        .ok (acc * 2 ^ n + bitsValue ((fieldBits k w.toNat ++ fieldBits 16 (r.byteOrZero (p + 1) ++ r.byteOrZero p : Word16).toNat).take n))
  | 0, acc, k, p, w, _ => by simp [Reader.peekBitsFrom, bitsValue]
  | n + 1, acc, 0, p, w, h => by
    rw [Reader.peekBitsFrom, if_pos rfl, if_pos rfl]
    simp only
    rw [Reader.peekBitsFrom_pending r true (by omega), show fieldBits 0 w.toNat = [] from rfl, List.nil_append,
      show fieldBits 16 (r.byteOrZero (p + 1) ++ r.byteOrZero p : Word16).toNat =
        (r.byteOrZero (p + 1) ++ r.byteOrZero p : Word16).getLsbD 15 :: fieldBits 15 (r.byteOrZero (p + 1) ++ r.byteOrZero p : Word16).toNat
        from rfl, List.take_succ_cons, bitsValue_cons, List.length_take, fieldBits_length, min_eq_left (by omega), Nat.pow_succ]
    congr 1
    ring
  | n + 1, acc, k + 1, p, w, h => by
    rw [Reader.peekBitsFrom, if_neg (by omega), Nat.add_sub_cancel, Reader.peekBitsFrom_tolerant r (by omega),
      show fieldBits (k + 1) w.toNat = w.getLsbD k :: fieldBits k w.toNat from rfl,
      List.cons_append, List.take_succ_cons, bitsValue_cons, List.length_take, List.length_append, fieldBits_length, fieldBits_length,
      min_eq_left (by omega), Nat.pow_succ]
    congr 1
    ring

/-- A peek of 16 bits or fewer cannot fault: past the end it sees zeros (R133 (b)). -/
theorem Reader.peekBits_short {r : Reader} {n : Nat} (h : n ≤ 16) : r.peekBits n = .ok (bitsValue (r.peekStream.take n)) := by
  rw [Reader.peekBits, decide_eq_true h, Reader.peekBitsFrom_tolerant r (by omega), Reader.peekStream, Reader.pending]
  simp

theorem Reader.byteOrZero_of_lt {r : Reader} {a : Nat} (h : a < r.len) : r.byteOrZero a = r.byteAt a := if_pos h

/-- A peek along a read that succeeds: the same bits. -/
theorem Reader.peekBitsFrom_of_read {r : Reader} (t : Bool) : ∀ {n acc v : Nat} {q p : Reader}, q.data = r.data → q.len = r.len →
    Reader.readBitsFrom n acc q = .ok (v, p) → r.peekBitsFrom t n acc q.currentWord q.bitsLeft q.bytePos = .ok v
  | 0, acc, v, q, p, _, _, h => by
    rw [Reader.readBitsFrom] at h; cases h; rfl
  | n + 1, acc, v, q, p, hd, hl, h => by
    rw [Reader.readBitsFrom] at h
    by_cases h0 : q.bitsLeft = 0
    · by_cases hlen : q.bytePos + 2 ≤ q.len
      · rw [Reader.readBit_fetch h0 hlen] at h
        dsimp only at h
        have hrec := Reader.peekBitsFrom_of_read (r := r) t (by exact hd) (by exact hl) h
        have hw : q.wordAt q.bytePos = r.wordAt q.bytePos := by simp only [Reader.wordAt, Reader.byteAt, hd]
        rw [Reader.peekBitsFrom, if_pos h0]
        split
        · simp only
          rw [Reader.byteOrZero_of_lt (by omega), Reader.byteOrZero_of_lt (by omega)]
          rw [hw] at hrec
          exact hrec
        · rw [if_neg (by omega), ← hw]
          exact hrec
      · rw [Reader.readBit_past h0 (by omega)] at h
        cases h
    · rw [Reader.readBit_pending h0] at h
      dsimp only at h
      have hrec := Reader.peekBitsFrom_of_read (r := r) t (by exact hd) (by exact hl) h
      rw [Reader.peekBitsFrom, if_neg h0]
      exact hrec

/-- A strict peek faults where the read would (R133 (c)). -/
theorem Reader.peekBitsFrom_strict {r : Reader} : ∀ {n acc : Nat} {q : Reader} {k : FaultKind}, q.data = r.data → q.len = r.len →
    Reader.readBitsFrom n acc q = .error k → r.peekBitsFrom false n acc q.currentWord q.bitsLeft q.bytePos = .error (.outOfBounds .peek)
  | 0, acc, q, k, _, _, h => by rw [Reader.readBitsFrom] at h; cases h
  | n + 1, acc, q, k, hd, hl, h => by
    rw [Reader.readBitsFrom] at h
    by_cases h0 : q.bitsLeft = 0
    · by_cases hlen : q.bytePos + 2 ≤ q.len
      · rw [Reader.readBit_fetch h0 hlen] at h
        dsimp only at h
        have hrec := Reader.peekBitsFrom_strict (r := r) (by exact hd) (by exact hl) h
        have hw : q.wordAt q.bytePos = r.wordAt q.bytePos := by simp only [Reader.wordAt, Reader.byteAt, hd]
        rw [Reader.peekBitsFrom, if_pos h0]
        simp only [Bool.false_eq_true, if_false]
        rw [if_neg (by omega), ← hw]
        exact hrec
      · rw [Reader.peekBitsFrom, if_pos h0]
        simp only [Bool.false_eq_true, if_false]
        rw [if_pos (by omega)]
    · rw [Reader.readBit_pending h0] at h
      dsimp only at h
      have hrec := Reader.peekBitsFrom_strict (r := r) (by exact hd) (by exact hl) h
      rw [Reader.peekBitsFrom, if_neg h0]
      exact hrec

/-- A peek returns what the read would (R133 (a)). -/
theorem Reader.peekBits_of_readBits {r q : Reader} {n v : Nat} (h : r.readBits n = .ok (v, q)) : r.peekBits n = .ok v :=
  Reader.peekBitsFrom_of_read _ rfl rfl h

/-- A peek of more than 16 bits faults where the read would (R133 (c)). -/
theorem Reader.peekBits_long_error {r : Reader} {n : Nat} {k : FaultKind} (hn : 16 < n) (h : r.readBits n = .error k) :
    r.peekBits n = .error (.outOfBounds .peek) := by
  rw [Reader.peekBits, decide_eq_false (by omega)]
  exact Reader.peekBitsFrom_strict rfl rfl h

/-- The value of a peek of `n ≤ 16` bits has `n` bits. -/
theorem Reader.peekBits_lt {r : Reader} {n v : Nat} (hn : n ≤ 16) (h : r.peekBits n = .ok v) : v < 2 ^ n := by
  rw [Reader.peekBits_short hn] at h
  cases h
  refine lt_of_lt_of_le (bitsValue_lt _) (Nat.pow_le_pow_right (by omega) ?_)
  rw [List.length_take]
  exact min_le_left _ _

end Sys2Proof.Machine
end

