-- ==== Sys2Proof/Laws/ReaderOps.lean ====
section
/-! SUPPORT. Laws/ReaderOps.lean: the reader operations on a state: what each can do, said once. -/

namespace Sys2Proof.Machine

theorem Reader.Advanced.trans {r q p : Reader} {a b : Nat} (h : r.Advanced q a) (g : q.Advanced p b) : r.Advanced p (a + b) := by
  have h1 := h.fetched
  have h2 := h.counted
  have h3 := g.fetched
  have h4 := g.counted
  refine ⟨by rw [g.stream, h.stream, List.drop_drop], g.data.trans h.data, g.len.trans h.len, ?_, ?_⟩ <;> omega

@[simp] theorem State.setBr_self (s : State) : s.setBr s.br = s := rfl

/-- Everything `readBits` does to a state: the next `n` bits and the reader that far on, or the fault. -/
theorem readBits_cases (n : Nat) (s : State) :
    (n ≤ s.br.stream.length ∧ ∃ q, readBits n s = .ok (bitsValue (s.br.stream.take n)) (s.setBr q) ∧ s.br.Advanced q n ∧
        s.br.readBits n = .ok (bitsValue (s.br.stream.take n), q)) ∨
      (s.br.stream.length < n ∧ readBits n s = .raise (.outOfBounds .wordFetch)) := by
  rcases Reader.readBits_cases s.br n with ⟨hn, q, hq, ha⟩ | ⟨hn, he⟩
  · exact .inl ⟨hn, q, onReader_of_ok hq, ha, hq⟩
  · exact .inr ⟨hn, onReader_of_error he⟩

theorem readBits_of_le {n : Nat} {s : State} (h : n ≤ s.br.stream.length) :
    ∃ q, readBits n s = .ok (bitsValue (s.br.stream.take n)) (s.setBr q) ∧ s.br.Advanced q n := by
  rcases readBits_cases n s with ⟨-, q, hq, ha, -⟩ | ⟨hn, -⟩
  · exact ⟨q, hq, ha⟩
  · omega

theorem readBits_of_lt {n : Nat} {s : State} (h : s.br.stream.length < n) : readBits n s = .raise (.outOfBounds .wordFetch) := by
  rcases readBits_cases n s with ⟨hn, -⟩ | ⟨-, he⟩
  · omega
  · exact he

theorem readBits_ok {n v : Nat} {s t : State} (h : readBits n s = .ok v t) :
    n ≤ s.br.stream.length ∧ v = bitsValue (s.br.stream.take n) ∧ ∃ q, t = s.setBr q ∧ s.br.Advanced q n := by
  rcases readBits_cases n s with ⟨hn, q, hq, ha, -⟩ | ⟨-, he⟩
  · rw [hq] at h; cases h; exact ⟨hn, rfl, q, rfl, ha⟩
  · rw [he] at h; cases h

theorem readBits_ok_lt {n v : Nat} {s t : State} (h : readBits n s = .ok v t) : v < 2 ^ n := by
  obtain ⟨hn, rfl, -⟩ := readBits_ok h
  have := bitsValue_lt (s.br.stream.take n)
  rwa [List.length_take, min_eq_left hn] at this

theorem readBits_raise {n : Nat} {s : State} {k : FaultKind} (h : readBits n s = .raise k) :
    s.br.stream.length < n ∧ k = .outOfBounds .wordFetch := by
  rcases readBits_cases n s with ⟨-, q, hq, -⟩ | ⟨hn, he⟩
  · rw [hq] at h; cases h
  · rw [he] at h; cases h; exact ⟨hn, rfl⟩

theorem readBits_not_stuck {n : Nat} {s : State} {r : Fault} : readBits n s ≠ .stuck r := by
  intro h
  rcases readBits_cases n s with ⟨-, q, hq, -⟩ | ⟨-, he⟩
  · rw [hq] at h; cases h
  · rw [he] at h; cases h

/-- A peek changes nothing. -/
theorem peekBits_ok {n v : Nat} {s t : State} (h : peekBits n s = .ok v t) : t = s ∧ s.br.peekBits n = .ok v := by
  obtain ⟨r, hr, rfl⟩ := onReader_ok h
  cases hp : s.br.peekBits n with
  | error k => rw [hp] at hr; cases hr
  | ok w => rw [hp] at hr; cases hr; exact ⟨rfl, rfl⟩

theorem peekBits_short {n : Nat} {s : State} (h : n ≤ 16) : peekBits n s = .ok (bitsValue (s.br.peekStream.take n)) s := by
  have := onReader_of_ok (s := s) (f := fun r => (r.peekBits n).map fun v => (v, r)) (a := bitsValue (s.br.peekStream.take n)) (r := s.br)
    (by rw [Reader.peekBits_short h]; rfl)
  exact this

/-- Reading `count` fields of `width` bits is reading `width * count` bits (R98, R99). -/
theorem readFields_of_le (width : Nat) : ∀ {count : Nat} {s : State}, width * count ≤ s.br.stream.length →
    ∃ vs q, readFields width count s = .ok vs (s.setBr q) ∧ s.br.Advanced q (width * count) ∧ vs.length = count ∧
      ∀ acc, vs.foldl (fun acc v => acc * 2 ^ width + v) acc = acc * 2 ^ (width * count) + bitsValue (s.br.stream.take (width * count))
  | 0, s, _ => ⟨[], s.br, rfl, .zero _, rfl, by simp [bitsValue]⟩
  | count + 1, s, h => by
    rw [Nat.mul_succ] at h
    obtain ⟨q, hq, ha⟩ := readBits_of_le (n := width) (s := s) (by omega)
    have hs : (s.setBr q).br.stream = s.br.stream.drop width := ha.stream
    obtain ⟨vs, p, hp, hb, hlen, hval⟩ := readFields_of_le width (count := count) (s := s.setBr q) (by rw [hs, List.length_drop]; omega)
    refine ⟨bitsValue (s.br.stream.take width) :: vs, p, ?_, ?_, by rw [List.length_cons, hlen], ?_⟩
    · rw [readFields, Op.bind_of_ok hq, Op.bind_of_ok hp]
      rfl
    · rw [Nat.mul_succ, Nat.add_comm]
      exact ha.trans hb
    · intro acc
      rw [List.foldl_cons, hval, hs, Nat.mul_succ, Nat.add_comm (width * count) width, List.take_add, bitsValue_append, List.length_take,
        List.length_drop, min_eq_left (by omega), Nat.pow_add]
      ring

theorem readFields_of_lt (width : Nat) : ∀ {count : Nat} {s : State}, s.br.stream.length < width * count →
    readFields width count s = .raise (.outOfBounds .wordFetch)
  | 0, s, h => by simp at h
  | count + 1, s, h => by
    rw [Nat.mul_succ] at h
    rw [readFields]
    rcases readBits_cases width s with ⟨hn, q, hq, ha, -⟩ | ⟨-, he⟩
    · rw [Op.bind_of_ok hq]
      refine Op.bind_of_raise (readFields_of_lt width ?_)
      have hs : (s.setBr q).br.stream = s.br.stream.drop width := ha.stream
      rw [hs, List.length_drop]
      omega
    · exact Op.bind_of_raise he

/-- The next `width * count` bits as one number. -/
theorem packFields_eq {width count : Nat} {vs : List Nat} {bits : List Bool}
    (h : ∀ acc, vs.foldl (fun acc v => acc * 2 ^ width + v) acc = acc * 2 ^ (width * count) + bitsValue bits) :
    packFields width vs = bitsValue bits := by rw [packFields, h 0]; simp

theorem readPretreeField_of_le {s : State} (h : 80 ≤ s.br.stream.length) :
    ∃ q, readPretreeField s = .ok (BitVec.ofNat 80 (bitsValue (s.br.stream.take 80))) (s.setBr q) ∧ s.br.Advanced q 80 := by
  obtain ⟨vs, q, hq, ha, -, hv⟩ := readFields_of_le 4 (count := nPre) (s := s) h
  exact ⟨q, by rw [readPretreeField, Op.bind_of_ok hq, packFields_eq hv]; rfl, ha⟩

theorem readPretreeField_of_lt {s : State} (h : s.br.stream.length < 80) : readPretreeField s = .raise (.outOfBounds .wordFetch) :=
  Op.bind_of_raise (readFields_of_lt 4 (count := nPre) h)

theorem readAlignedField_of_le {s : State} (h : 24 ≤ s.br.stream.length) :
    ∃ q, readAlignedField s = .ok (BitVec.ofNat 24 (bitsValue (s.br.stream.take 24))) (s.setBr q) ∧ s.br.Advanced q 24 := by
  obtain ⟨vs, q, hq, ha, -, hv⟩ := readFields_of_le 3 (count := nAlign) (s := s) h
  exact ⟨q, by rw [readAlignedField, Op.bind_of_ok hq, packFields_eq hv]; rfl, ha⟩

theorem readAlignedField_of_lt {s : State} (h : s.br.stream.length < 24) : readAlignedField s = .raise (.outOfBounds .wordFetch) :=
  Op.bind_of_raise (readFields_of_lt 3 (count := nAlign) h)

/-- Two reads one after the other, as one read of both widths. -/
theorem readBits_then {a b : Nat} {s : State} (h : a + b ≤ s.br.stream.length) :
    ∃ p q, readBits a s = .ok (bitsValue (s.br.stream.take a)) (s.setBr p) ∧
      readBits b (s.setBr p) = .ok (bitsValue ((s.br.stream.drop a).take b)) (s.setBr q) ∧ s.br.Advanced p a ∧ s.br.Advanced q (a + b) := by
  obtain ⟨p, hp, ha⟩ := readBits_of_le (n := a) (s := s) (by omega)
  have hs : (s.setBr p).br.stream = s.br.stream.drop a := ha.stream
  obtain ⟨q, hq, hb⟩ := readBits_of_le (n := b) (s := s.setBr p) (by rw [hs, List.length_drop]; omega)
  exact ⟨p, q, hp, by rw [hq, hs]; rfl, ha, ha.trans hb⟩

/-- `readU24be` is the next 24 bits (R66 (b), R135). -/
theorem readU24be_of_le {s : State} (h : 24 ≤ s.br.stream.length) :
    ∃ q, readU24be s = .ok (BitVec.ofNat 24 (bitsValue (s.br.stream.take 24))) (s.setBr q) ∧ s.br.Advanced q 24 := by
  obtain ⟨p, q, hp, hq, -, ha⟩ := readBits_then (a := 16) (b := 8) h
  refine ⟨q, ?_, ha⟩
  rw [readU24be, Op.bind_of_ok hp, Op.bind_of_ok hq, show (24 : Nat) = 16 + 8 from rfl, List.take_add, bitsValue_append, List.length_take,
    List.length_drop, min_eq_left (by omega)]
  rfl

theorem readU24be_of_lt {s : State} (h : s.br.stream.length < 24) : readU24be s = .raise (.outOfBounds .wordFetch) := by
  rw [readU24be]
  rcases readBits_cases 16 s with ⟨hn, q, hq, ha, -⟩ | ⟨-, he⟩
  · have hs : (s.setBr q).br.stream = s.br.stream.drop 16 := ha.stream
    rw [Op.bind_of_ok hq]
    exact Op.bind_of_raise (readBits_of_lt (by rw [hs, List.length_drop]; omega))
  · exact Op.bind_of_raise he

theorem readU32le_of_le {s : State} (h : 32 ≤ s.br.stream.length) :
    ∃ q, readU32le s = .ok (u32Value s.br.stream) (s.setBr q) ∧ s.br.Advanced q 32 := by
  obtain ⟨p, q, hp, hq, -, ha⟩ := readBits_then (a := 16) (b := 16) h
  exact ⟨q, by rw [readU32le, Op.bind_of_ok hp, Op.bind_of_ok hq]; rfl, ha⟩

theorem readU32le_of_lt {s : State} (h : s.br.stream.length < 32) : readU32le s = .raise (.outOfBounds .wordFetch) := by
  rw [readU32le]
  rcases readBits_cases 16 s with ⟨hn, q, hq, ha, -⟩ | ⟨-, he⟩
  · have hs : (s.setBr q).br.stream = s.br.stream.drop 16 := ha.stream
    rw [Op.bind_of_ok hq]
    exact Op.bind_of_raise (readBits_of_lt (by rw [hs, List.length_drop]; omega))
  · exact Op.bind_of_raise he

theorem readHeader_of_le {s : State} (h : 27 ≤ s.br.stream.length) :
    ∃ q, readHeader s = .ok (bitsValue (s.br.stream.take 3), BitVec.ofNat 24 (bitsValue ((s.br.stream.drop 3).take 24))) (s.setBr q) ∧
      s.br.Advanced q 27 := by
  obtain ⟨p, hp, ha⟩ := readBits_of_le (n := 3) (s := s) (by omega)
  have hs : (s.setBr p).br.stream = s.br.stream.drop 3 := ha.stream
  obtain ⟨q, hq, hb⟩ := readU24be_of_le (s := s.setBr p) (by rw [hs, List.length_drop]; omega)
  exact ⟨q, by rw [readHeader, Op.bind_of_ok hp, Op.bind_of_ok hq, hs]; rfl, ha.trans hb⟩

theorem readHeader_of_lt {s : State} (h : s.br.stream.length < 27) : readHeader s = .raise (.outOfBounds .wordFetch) := by
  rw [readHeader]
  rcases readBits_cases 3 s with ⟨hn, q, hq, ha, -⟩ | ⟨-, he⟩
  · have hs : (s.setBr q).br.stream = s.br.stream.drop 3 := ha.stream
    rw [Op.bind_of_ok hq]
    exact Op.bind_of_raise (readU24be_of_lt (by rw [hs, List.length_drop]; omega))
  · exact Op.bind_of_raise he

theorem readOffsetValues_of_le {s : State} (h : 96 ≤ s.br.stream.length) :
    ∃ q, readOffsetValues s = .ok (u32Value s.br.stream, u32Value (s.br.stream.drop 32), u32Value (s.br.stream.drop 64)) (s.setBr q) ∧
      s.br.Advanced q 96 := by
  obtain ⟨p, hp, ha⟩ := readU32le_of_le (s := s) (by omega)
  have hs : (s.setBr p).br.stream = s.br.stream.drop 32 := ha.stream
  obtain ⟨q, hq, hb⟩ := readU32le_of_le (s := s.setBr p) (by rw [hs, List.length_drop]; omega)
  have hs' : ((s.setBr p).setBr q).br.stream = s.br.stream.drop 64 := by
    rw [show ((s.setBr p).setBr q).br.stream = (s.setBr p).br.stream.drop 32 from hb.stream, hs, List.drop_drop]
  obtain ⟨o, ho, hc⟩ := readU32le_of_le (s := (s.setBr p).setBr q) (by rw [hs', List.length_drop]; omega)
  refine ⟨o, ?_, (ha.trans hb).trans hc⟩
  rw [readOffsetValues, Op.bind_of_ok hp, Op.bind_of_ok hq, Op.bind_of_ok ho, hs, hs']
  rfl

theorem readOffsetValues_of_lt {s : State} (h : s.br.stream.length < 96) : readOffsetValues s = .raise (.outOfBounds .wordFetch) := by
  rw [readOffsetValues]
  rcases Nat.lt_or_ge s.br.stream.length 32 with h1 | h1
  · exact Op.bind_of_raise (readU32le_of_lt h1)
  obtain ⟨p, hp, ha⟩ := readU32le_of_le h1
  have hs : (s.setBr p).br.stream = s.br.stream.drop 32 := ha.stream
  rw [Op.bind_of_ok hp]
  rcases Nat.lt_or_ge s.br.stream.length 64 with h2 | h2
  · exact Op.bind_of_raise (readU32le_of_lt (by rw [hs, List.length_drop]; omega))
  obtain ⟨q, hq, hb⟩ := readU32le_of_le (s := s.setBr p) (by rw [hs, List.length_drop]; omega)
  rw [Op.bind_of_ok hq]
  refine Op.bind_of_raise (readU32le_of_lt ?_)
  rw [show ((s.setBr p).setBr q).br.stream = (s.setBr p).br.stream.drop 32 from hb.stream, hs, List.drop_drop, List.length_drop]
  omega

end Sys2Proof.Machine
end

