-- ==== Sys2Proof/Laws/Huffman.lean ====
section
/-! SUPPORT. Laws/Huffman.lean: which length arrays build a table (R162), what the table holds (R163, R37), and what decoding with it
does (R164, R167). -/

namespace Sys2Proof.Machine

/-! ### The largest length -/

theorem foldl_max_le {l : List Nat} {a b : Nat} : l.foldl max a ≤ b ↔ a ≤ b ∧ ∀ x ∈ l, x ≤ b := by
  induction l generalizing a with
  | nil => simp
  | cons x l ih => rw [List.foldl_cons, ih]; simp [and_assoc]

theorem le_maxLen {lens : List Nat} {x : Nat} (h : x ∈ lens) : x ≤ maxLen lens := (foldl_max_le.1 (Nat.le_refl (maxLen lens))).2 x h

theorem maxLen_le {lens : List Nat} {b : Nat} (h : ∀ x ∈ lens, x ≤ b) : maxLen lens ≤ b := foldl_max_le.2 ⟨Nat.zero_le _, h⟩

theorem lenAt_mem {lens : List Nat} {i : Nat} (h : i < lens.length) : lenAt lens i ∈ lens := by
  rw [lenAt, List.getD_eq_getElem _ _ h]
  exact List.getElem_mem h

theorem lenAt_le_maxLen {lens : List Nat} {i : Nat} : lenAt lens i ≤ maxLen lens := by
  rcases Nat.lt_or_ge i lens.length with h | h
  · exact le_maxLen (lenAt_mem h)
  · rw [lenAt, List.getD_eq_default _ _ h]; exact Nat.zero_le _

theorem lt_length_of_lenAt {lens : List Nat} {i : Nat} (h : lenAt lens i ≠ 0) : i < lens.length := by
  rcases Nat.lt_or_ge i lens.length with h' | h'
  · exact h'
  · rw [lenAt, List.getD_eq_default _ _ h'] at h; exact absurd rfl h

/-! ### The order of the fill -/

theorem mem_symbolsOfLength {L sym : Nat} : ∀ {lens : List Nat} {first : Nat},
    sym ∈ symbolsOfLength L lens first ↔ first ≤ sym ∧ ∃ h : sym - first < lens.length, lens[sym - first] = L
  | [], first => by simp [symbolsOfLength]
  | x :: rest, first => by
    have ih := mem_symbolsOfLength (L := L) (sym := sym) (lens := rest) (first := first + 1)
    have hstep : (first + 1 ≤ sym ∧ ∃ h : sym - (first + 1) < rest.length, rest[sym - (first + 1)] = L) ↔
        (first < sym ∧ ∃ h : sym - first < (x :: rest).length, (x :: rest)[sym - first] = L) := by
      constructor
      · rintro ⟨h, hl, he⟩
        refine ⟨by omega, by rw [List.length_cons]; omega, ?_⟩
        rw [← he]
        have : sym - first = (sym - (first + 1)) + 1 := by omega
        simp only [this, List.getElem_cons_succ]
      · rintro ⟨h, hl, he⟩
        rw [List.length_cons] at hl
        refine ⟨by omega, by omega, ?_⟩
        rw [← he]
        have : sym - first = (sym - (first + 1)) + 1 := by omega
        simp only [this, List.getElem_cons_succ]
    rw [symbolsOfLength]
    split
    · next hx =>
      rw [List.mem_cons, ih, hstep]
      constructor
      · rintro (rfl | ⟨h, h'⟩)
        · exact ⟨Nat.le_refl _, by simp, by simpa using hx⟩
        · exact ⟨by omega, h'⟩
      · rintro ⟨h, h'⟩
        rcases Nat.eq_or_lt_of_le h with he | hlt
        · exact .inl he.symm
        · exact .inr ⟨hlt, h'⟩
    · next hx =>
      rw [ih, hstep]
      constructor
      · rintro ⟨h, h'⟩
        exact ⟨by omega, h'⟩
      · rintro ⟨h, hl, he⟩
        rcases Nat.eq_or_lt_of_le h with heq | hlt
        · subst heq
          simp at he
          exact absurd he hx
        · exact ⟨hlt, hl, he⟩

theorem mem_symbolsOfLength_zero {L sym : Nat} {lens : List Nat} : sym ∈ symbolsOfLength L lens 0 ↔ sym < lens.length ∧ lenAt lens sym = L := by
  rw [mem_symbolsOfLength]
  constructor
  · rintro ⟨-, h, he⟩
    have h' : sym < lens.length := h
    exact ⟨h', by rw [lenAt, List.getD_eq_getElem _ _ h']; exact he⟩
  · rintro ⟨h, he⟩
    exact ⟨Nat.zero_le _, h, by rw [lenAt, List.getD_eq_getElem _ _ h] at he; exact he⟩

theorem mem_fillOrder {lens : List Nat} {m L sym : Nat} :
    (L, sym) ∈ fillOrder lens m ↔ 1 ≤ L ∧ L ≤ m ∧ sym < lens.length ∧ lenAt lens sym = L := by
  simp only [fillOrder, List.mem_flatMap, List.mem_range, List.mem_map, Prod.mk.injEq, mem_symbolsOfLength_zero]
  constructor
  · rintro ⟨j, hj, x, ⟨hx, hL⟩, rfl, rfl⟩
    exact ⟨by omega, by omega, hx, hL⟩
  · rintro ⟨h1, hm, hs, hL⟩
    exact ⟨L - 1, by omega, sym, ⟨hs, by omega⟩, by omega, rfl⟩

/-- The used symbols in the order their codes are given out. -/
theorem symbolsOfLength_sorted {L : Nat} : ∀ {lens : List Nat} {first : Nat}, (symbolsOfLength L lens first).Pairwise (· < ·)
  | [], _ => .nil
  | x :: rest, first => by
    rw [symbolsOfLength]
    split
    · refine .cons (fun y hy => ?_) symbolsOfLength_sorted
      have := (mem_symbolsOfLength.1 hy).1
      omega
    · exact symbolsOfLength_sorted

/-- `(length, symbol)` order (R160, R163). -/
def fillBefore (a b : Nat × Nat) : Prop := a.1 < b.1 ∨ (a.1 = b.1 ∧ a.2 < b.2)

theorem fillOrder_sorted (lens : List Nat) (m : Nat) : (fillOrder lens m).Pairwise fillBefore := by
  rw [fillOrder, List.pairwise_flatMap]
  refine ⟨fun j _ => ?_, ?_⟩
  · rw [List.pairwise_map]
    exact symbolsOfLength_sorted.imp fun h => .inr ⟨rfl, h⟩
  · refine List.Pairwise.imp ?_ List.pairwise_lt_range
    intro i j hij a ha b hb
    obtain ⟨x, -, rfl⟩ := List.mem_map.1 ha
    obtain ⟨y, -, rfl⟩ := List.mem_map.1 hb
    exact .inl (by simp only; omega)

/-! ### How many entries the used symbols take -/

/-- The entries of the symbols of a list that a test picks. -/
def spans (m : Nat) (p : Nat × Nat → Bool) (l : List (Nat × Nat)) : Nat := (l.map fun a => if p a then 2 ^ (m - a.1) else 0).sum

theorem spans_append (m : Nat) (p : Nat × Nat → Bool) (a b : List (Nat × Nat)) : spans m p (a ++ b) = spans m p a + spans m p b := by
  simp [spans]

theorem spans_symbolsOfLength (m L : Nat) (p : Nat × Nat → Bool) : ∀ (lens : List Nat) (first : Nat),
    spans m p ((symbolsOfLength L lens first).map fun sym => (L, sym)) =
      ((List.range lens.length).map fun i => if lenAt lens i = L ∧ p (L, first + i) then 2 ^ (m - L) else 0).sum
  | [], _ => rfl
  | x :: rest, first => by
    rw [symbolsOfLength, List.length_cons, List.range_succ_eq_map, List.map_cons, List.sum_cons, List.map_map]
    have ih := spans_symbolsOfLength m L p rest (first + 1)
    have htail : ((List.range rest.length).map ((fun i => if lenAt (x :: rest) i = L ∧ p (L, first + i) then 2 ^ (m - L) else 0) ∘ Nat.succ)).sum =
        ((List.range rest.length).map fun i => if lenAt rest i = L ∧ p (L, first + 1 + i) then 2 ^ (m - L) else 0).sum := by
      congr 1
      refine List.map_congr_left fun i _ => ?_
      have : lenAt (x :: rest) (i + 1) = lenAt rest i := by simp [lenAt]
      simp only [Function.comp, Nat.succ_eq_add_one, this, show first + (i + 1) = first + 1 + i by omega]
    rw [htail, ← ih]
    have h0 : lenAt (x :: rest) 0 = x := by simp [lenAt]
    simp only [h0, Nat.add_zero]
    split
    · next hx =>
      subst hx
      simp [spans]
    · next hx => simp [hx]

theorem sum_map_add {ι : Type} (l : List ι) (f g : ι → Nat) : (l.map fun i => f i + g i).sum = (l.map f).sum + (l.map g).sum := by
  induction l with
  | nil => rfl
  | cons x l ih => simp only [List.map_cons, List.sum_cons, ih]; omega

theorem spans_fillOrder (lens : List Nat) (m : Nat) (p : Nat × Nat → Bool) :
    spans m p (fillOrder lens m) =
      ((List.range lens.length).map fun i => if lenAt lens i ≠ 0 ∧ lenAt lens i ≤ m ∧ p (lenAt lens i, i) then 2 ^ (m - lenAt lens i) else 0).sum := by
  have h : ∀ k, spans m p ((List.range k).flatMap fun j => (symbolsOfLength (j + 1) lens 0).map fun sym => (j + 1, sym)) =
      ((List.range lens.length).map fun i => if lenAt lens i ≠ 0 ∧ lenAt lens i ≤ k ∧ p (lenAt lens i, i) then 2 ^ (m - lenAt lens i) else 0).sum := by
    intro k
    induction k with
    | zero =>
      rw [List.range_zero, List.flatMap_nil]
      refine (List.sum_eq_zero ?_).symm
      intro x hx
      obtain ⟨i, -, rfl⟩ := List.mem_map.1 hx
      exact if_neg (by omega)
    | succ k ih =>
      rw [List.range_succ, List.flatMap_append, spans_append, ih, List.flatMap_singleton, spans_symbolsOfLength, ← sum_map_add]
      congr 1
      refine List.map_congr_left fun i _ => ?_
      simp only [Nat.zero_add]
      by_cases he : lenAt lens i = k + 1
      · rw [if_neg (by omega), he]
        by_cases hp : p (k + 1, i) = true <;> simp [hp]
      · rw [if_neg (show ¬(lenAt lens i = k + 1 ∧ p (k + 1, i) = true) from fun h => he h.1), Nat.add_zero]
        by_cases hc : lenAt lens i ≠ 0 ∧ lenAt lens i ≤ k ∧ p (lenAt lens i, i) = true
        · rw [if_pos hc, if_pos ⟨hc.1, by omega, hc.2.2⟩]
        · rw [if_neg hc, if_neg]
          rintro ⟨h1, h2, h3⟩
          exact hc ⟨h1, by omega, h3⟩
  exact h m

/-- Every entry of a list. -/
def allSpans (m : Nat) (l : List (Nat × Nat)) : Nat := spans m (fun _ => true) l

theorem allSpans_nil (m : Nat) : allSpans m [] = 0 := rfl

theorem allSpans_cons (m L sym : Nat) (l : List (Nat × Nat)) : allSpans m ((L, sym) :: l) = 2 ^ (m - L) + allSpans m l := by
  simp [allSpans, spans]

/-- The used symbols take `kraft` entries (R162). -/
theorem allSpans_fillOrder (lens : List Nat) : allSpans (maxLen lens) (fillOrder lens (maxLen lens)) = kraft (maxLen lens) lens := by
  rw [allSpans, spans_fillOrder, kraft]
  congr 1
  refine List.ext_getElem (by simp) fun i h1 h2 => ?_
  rw [List.getElem_map, List.getElem_map, List.getElem_range]
  have hi : i < lens.length := by simpa using h2
  have : lenAt lens i = lens[i] := by rw [lenAt, List.getD_eq_getElem _ _ hi]
  have hle := lenAt_le_maxLen (lens := lens) (i := i)
  rw [this] at hle ⊢
  by_cases h0 : lens[i] = 0 <;> simp [h0, hle]

/-! ### The fill -/

/-- Everything the fill can do (R160, R162). -/
theorem fillTable_eq (m : Nat) : ∀ (l : List (Nat × Nat)) (cursor : Nat), cursor ≤ 2 ^ m →
    fillTable m l cursor =
      if cursor + allSpans m l = 2 ^ m then .ok (l.flatMap fun a => List.replicate (2 ^ (m - a.1)) a.2)
      else if cursor + allSpans m l < 2 ^ m then .error (.corruptTable .incomplete)
      else .error (.corruptTable .oversubscribed)
  | [], cursor, h => by
    rw [fillTable, allSpans_nil, Nat.add_zero]
    by_cases he : cursor = 2 ^ m
    · rw [if_pos he, if_pos he]
      rfl
    · rw [if_neg he, if_neg he, if_pos (by omega)]
  | (L, sym) :: rest, cursor, h => by
    rw [fillTable, allSpans_cons]
    by_cases hover : cursor + 2 ^ (m - L) > 2 ^ m
    · rw [if_pos hover, if_neg (by omega), if_neg (by omega)]
    · rw [if_neg hover, fillTable_eq m rest _ (by omega), Nat.add_assoc]
      by_cases h1 : cursor + (2 ^ (m - L) + allSpans m rest) = 2 ^ m
      · rw [if_pos h1, if_pos h1]
        rfl
      · rw [if_neg h1, if_neg h1]
        by_cases h2 : cursor + (2 ^ (m - L) + allSpans m rest) < 2 ^ m
        · rw [if_pos h2]
        · rw [if_neg h2]

/-- The entries of a list of symbols, in order. -/
def entries (m : Nat) (l : List (Nat × Nat)) : List Nat := l.flatMap fun a => List.replicate (2 ^ (m - a.1)) a.2

theorem entries_length (m : Nat) : ∀ l : List (Nat × Nat), (entries m l).length = allSpans m l
  | [] => rfl
  | (L, sym) :: rest => by
    rw [allSpans_cons, ← entries_length m rest]
    simp [entries]

theorem mem_entries {m sym : Nat} {l : List (Nat × Nat)} (h : sym ∈ entries m l) : ∃ L, (L, sym) ∈ l := by
  obtain ⟨a, ha, hs⟩ := List.mem_flatMap.1 h
  have := List.eq_of_mem_replicate hs
  exact ⟨a.1, by rw [this]; exact ha⟩

/-- The table of a length array that tiles (R160). -/
def tableEntries (lens : List Nat) : List Nat := entries (maxLen lens) (fillOrder lens (maxLen lens))

/-- Everything `buildTable` can do to a table (R160 to R162). -/
theorem Table.build_eq (t : Table) (k : TableKind) :
    t.build k =
      if maxLen t.lens = 0 then
        (if k = .len then .ok { t with maxLength := 0, tab := [], present := false } else .error (.corruptTable .empty))
      else if kraft (maxLen t.lens) t.lens = 2 ^ maxLen t.lens then
        .ok { t with maxLength := maxLen t.lens, tab := tableEntries t.lens, present := true }
      else if kraft (maxLen t.lens) t.lens < 2 ^ maxLen t.lens then .error (.corruptTable .incomplete)
      else .error (.corruptTable .oversubscribed) := by
  rw [Table.build]
  by_cases h0 : maxLen t.lens = 0
  · rw [if_pos h0, if_pos h0]
  · rw [if_neg h0, if_neg h0, fillTable_eq _ _ _ (Nat.zero_le _), Nat.zero_add, allSpans_fillOrder]
    by_cases h1 : kraft (maxLen t.lens) t.lens = 2 ^ maxLen t.lens
    · rw [if_pos h1, if_pos h1]
      rfl
    · rw [if_neg h1, if_neg h1]
      by_cases h2 : kraft (maxLen t.lens) t.lens < 2 ^ maxLen t.lens
      · rw [if_pos h2, if_pos h2]
      · rw [if_neg h2, if_neg h2]

theorem Table.build_tiles {t : Table} (k : TableKind) (h0 : 0 < maxLen t.lens) (h : kraft (maxLen t.lens) t.lens = 2 ^ maxLen t.lens) :
    t.build k = .ok { t with maxLength := maxLen t.lens, tab := tableEntries t.lens, present := true } := by
  rw [Table.build_eq, if_neg (by omega), if_pos h]

/-- A table that is built, is built from its lengths: the lengths tile, or it is an absent length table. -/
theorem Table.build_ok {t u : Table} {k : TableKind} (h : t.build k = .ok u) :
    (0 < maxLen t.lens ∧ kraft (maxLen t.lens) t.lens = 2 ^ maxLen t.lens ∧
        u = { t with maxLength := maxLen t.lens, tab := tableEntries t.lens, present := true }) ∨
      (maxLen t.lens = 0 ∧ k = .len ∧ u = { t with maxLength := 0, tab := [], present := false }) := by
  rw [Table.build_eq] at h
  split at h
  · next h0 =>
    split at h
    · next hk => cases h; exact .inr ⟨h0, hk, rfl⟩
    · cases h
  · next h0 =>
    split at h
    · next h1 => cases h; exact .inl ⟨by omega, h1, rfl⟩
    · split at h <;> cases h

/-- Building changes neither the lengths nor their number. -/
theorem Table.build_lens {t u : Table} {k : TableKind} (h : t.build k = .ok u) : u.lens = t.lens := by
  rcases Table.build_ok h with ⟨-, -, rfl⟩ | ⟨-, -, rfl⟩ <;> rfl

/-- A built table that is present is filled and in step with its lengths (R37). -/
theorem Table.build_filled {t u : Table} {k : TableKind} (h : t.build k = .ok u) (hl : ∀ L ∈ t.lens, L ≤ 16) (hp : u.present = true) :
    u.Filled ∧ u.Settled := by
  rcases Table.build_ok h with ⟨h0, h1, rfl⟩ | ⟨-, -, rfl⟩
  · have hmem : ∀ sym ∈ tableEntries t.lens, sym < t.lens.length ∧ 1 ≤ lenAt t.lens sym ∧ lenAt t.lens sym ≤ maxLen t.lens := by
      intro sym hs
      obtain ⟨L, hL⟩ := mem_entries hs
      obtain ⟨h1, h2, h3, rfl⟩ := mem_fillOrder.1 hL
      exact ⟨h3, h1, h2⟩
    refine ⟨⟨?_, maxLen_le hl, fun sym hs => (hmem sym hs).1⟩, fun sym hs => (hmem sym hs).2⟩
    show (tableEntries t.lens).length = 2 ^ maxLen t.lens
    rw [tableEntries, entries_length, allSpans_fillOrder, h1]
  · cases hp

/-! ### Where a symbol's entries stand -/

theorem fillBefore_asymm {a b : Nat × Nat} (h : fillBefore a b) : ¬fillBefore b a := by
  unfold fillBefore at *
  omega

theorem fillBefore_irrefl (a : Nat × Nat) : ¬fillBefore a a := by
  unfold fillBefore
  omega

/-- The entries before those of a symbol are the entries of the symbols before it (R163). -/
theorem allSpans_prefix {m : Nat} {pre post : List (Nat × Nat)} {a : Nat × Nat} {p : Nat × Nat → Bool}
    (hp : ∀ b, p b = true ↔ fillBefore b a) (h : (pre ++ a :: post).Pairwise fillBefore) :
    allSpans m pre = spans m p (pre ++ a :: post) := by
  rw [List.pairwise_append, List.pairwise_cons] at h
  obtain ⟨-, ⟨ha, -⟩, hpre⟩ := h
  have h1 : spans m p pre = allSpans m pre := by
    rw [spans, allSpans, spans]
    congr 1
    refine List.map_congr_left fun b hb => ?_
    rw [(hp b).2 (hpre b hb a (by simp))]
  have h2 : spans m p (a :: post) = 0 := by
    rw [spans]
    refine List.sum_eq_zero fun x hx => ?_
    obtain ⟨b, hb, rfl⟩ := List.mem_map.1 hx
    rw [if_neg]
    intro hpb
    rcases List.mem_cons.1 hb with rfl | hb'
    · exact fillBefore_irrefl _ ((hp _).1 hpb)
    · exact fillBefore_asymm (ha b hb') ((hp b).1 hpb)
  rw [spans_append, h1, h2, Nat.add_zero]

theorem codedBefore_iff {lens : List Nat} {x sym : Nat} :
    codedBefore lens x sym = true ↔ lenAt lens x ≠ 0 ∧ (lenAt lens x < lenAt lens sym ∨ (lenAt lens x = lenAt lens sym ∧ x < sym)) := by
  simp [codedBefore]

theorem codeStart_eq {lens : List Nat} {sym : Nat} {pre post : List (Nat × Nat)}
    (h : fillOrder lens (maxLen lens) = pre ++ (lenAt lens sym, sym) :: post) : allSpans (maxLen lens) pre = codeStart lens sym := by
  have hs := fillOrder_sorted lens (maxLen lens)
  rw [h] at hs
  rw [allSpans_prefix (p := fun b => decide (b.1 < lenAt lens sym) || (decide (b.1 = lenAt lens sym) && decide (b.2 < sym)))
    (by intro b; simp [fillBefore]) hs, ← h, spans_fillOrder, codeStart]
  congr 1
  refine List.map_congr_left fun i _ => ?_
  have hle := lenAt_le_maxLen (lens := lens) (i := i)
  by_cases hc : codedBefore lens i sym = true
  · rw [if_pos hc, if_pos]
    have := codedBefore_iff.1 hc
    simpa [hle] using this
  · rw [if_neg hc, if_neg]
    rw [codedBefore_iff] at hc
    simpa [hle] using hc

/-- Every index in a symbol's span holds the symbol (R163). -/
theorem tableEntries_span {lens : List Nat} {sym q : Nat} (hs : lenAt lens sym ≠ 0) (hq : q < 2 ^ (maxLen lens - lenAt lens sym)) :
    (tableEntries lens)[codeStart lens sym + q]? = some sym := by
  have hmem : (lenAt lens sym, sym) ∈ fillOrder lens (maxLen lens) :=
    mem_fillOrder.2 ⟨by omega, lenAt_le_maxLen, lt_length_of_lenAt hs, rfl⟩
  obtain ⟨pre, post, h⟩ := List.append_of_mem hmem
  have hstart := codeStart_eq h
  have he : tableEntries lens = entries (maxLen lens) pre ++ (List.replicate (2 ^ (maxLen lens - lenAt lens sym)) sym ++ entries (maxLen lens) post) := by
    rw [tableEntries, h]
    simp [entries]
  rw [he, List.getElem?_append_right (by rw [entries_length, hstart]; omega), entries_length, hstart, Nat.add_sub_cancel_left,
    List.getElem?_append_left (by simpa using hq), List.getElem?_replicate_of_lt hq]

/-- A symbol's span begins at a multiple of its length (R163). -/
theorem codeStart_dvd (lens : List Nat) (sym : Nat) : 2 ^ (maxLen lens - lenAt lens sym) ∣ codeStart lens sym := by
  rw [codeStart]
  refine List.dvd_sum fun x hx => ?_
  obtain ⟨i, -, rfl⟩ := List.mem_map.1 hx
  split
  · next hc =>
    have := codedBefore_iff.1 hc
    exact Nat.pow_dvd_pow _ (by omega)
  · exact Nat.dvd_zero _

theorem codeOf_mul (lens : List Nat) (sym : Nat) : codeOf lens sym * 2 ^ (maxLen lens - lenAt lens sym) = codeStart lens sym :=
  Nat.div_mul_cancel (codeStart_dvd lens sym)

end Sys2Proof.Machine
end

