-- ==== Sys2Proof/Laws/Symbol.lean ====
section
/-! SUPPORT. Laws/Symbol.lean: decoding a symbol (R164 to R167): everything it can do, and the round trip of every code. -/

namespace Sys2Proof.Machine

theorem Reader.peekStream_length (r : Reader) : r.peekStream.length = r.bitsLeft + 16 := by simp [Reader.peekStream]

/-- Where the bits exist a peek sees the stream. -/
theorem Reader.peekStream_take {r : Reader} {n : Nat} (hn : n ≤ 16) (h : n ≤ r.stream.length) : r.peekStream.take n = r.stream.take n := by
  obtain ⟨q, hq, -⟩ := Reader.readBits_ok h
  have h1 := Reader.peekBits_of_readBits hq
  rw [Reader.peekBits_short hn] at h1
  have h2 : bitsValue (r.peekStream.take n) = bitsValue (r.stream.take n) := by injection h1
  have hl : (r.peekStream.take n).length = n := by rw [List.length_take, Reader.peekStream_length]; omega
  have hl' : (r.stream.take n).length = n := by rw [List.length_take]; omega
  rw [← fieldBits_bitsValue (r.peekStream.take n), ← fieldBits_bitsValue (r.stream.take n), hl, hl', h2]

theorem lookupSymbol_ok {k : TableKind} {idx sym : Nat} {s : State} (h : (s.table k).tab[idx]? = some sym) :
    lookupSymbol k idx s = .ok sym s := by simp [lookupSymbol, h]

/-- Decoding with an index that the table has (R164). -/
theorem decodeSymbol_of_lookup {k : TableKind} {sym : Nat} {s : State} (hp : (s.table k).present = true) (hm : (s.table k).maxLength ≤ 16)
    (h : (s.table k).tab[bitsValue (s.br.peekStream.take (s.table k).maxLength)]? = some sym) :
    (lenAt (s.table k).lens sym ≤ s.br.stream.length ∧
        ∃ q, decodeSymbol k s = .ok sym (s.setBr q) ∧ s.br.Advanced q (lenAt (s.table k).lens sym)) ∨
      (s.br.stream.length < lenAt (s.table k).lens sym ∧ decodeSymbol k s = .raise (.outOfBounds .wordFetch)) := by
  have hd : decodeSymbol k s = ((readBits (lenAt (s.table k).lens sym)).bind fun _ => Op.pure sym) s := by
    unfold decodeSymbol
    rw [State.present, if_pos hp, Op.bind_of_ok (peekBits_short hm), Op.bind_of_ok (lookupSymbol_ok h)]
  rw [hd]
  rcases readBits_cases (lenAt (s.table k).lens sym) s with ⟨hn, q, hq, ha, -⟩ | ⟨hn, he⟩
  · exact .inl ⟨hn, q, by rw [Op.bind_of_ok hq]; rfl, ha⟩
  · exact .inr ⟨hn, Op.bind_of_raise he⟩

/-- Decoding from an absent table (R165). -/
theorem decodeSymbol_absent {k : TableKind} {s : State} (h : (s.table k).present = false) :
    decodeSymbol k s = .raise (.corruptTable .absentLengthTree) := by
  unfold decodeSymbol
  rw [State.present, h]
  rfl

/-- Everything `decodeSymbol` can do with a filled table (R164). -/
theorem decodeSymbol_cases {k : TableKind} {s : State} (hp : (s.table k).present = true) (hf : (s.table k).Filled) :
    ∃ sym, sym ∈ (s.table k).tab ∧ sym < (s.table k).lens.length ∧
      ((lenAt (s.table k).lens sym ≤ s.br.stream.length ∧
          ∃ q, decodeSymbol k s = .ok sym (s.setBr q) ∧ s.br.Advanced q (lenAt (s.table k).lens sym)) ∨
        (s.br.stream.length < lenAt (s.table k).lens sym ∧ decodeSymbol k s = .raise (.outOfBounds .wordFetch))) := by
  have hidx : bitsValue (s.br.peekStream.take (s.table k).maxLength) < (s.table k).tab.length := by
    rw [hf.size]
    refine lt_of_lt_of_le (bitsValue_lt _) (Nat.pow_le_pow_right (by omega) ?_)
    rw [List.length_take]
    exact min_le_left _ _
  obtain ⟨sym, hs⟩ : ∃ sym, (s.table k).tab[bitsValue (s.br.peekStream.take (s.table k).maxLength)]? = some sym :=
    ⟨_, List.getElem?_eq_getElem hidx⟩
  have hmem := List.mem_of_getElem? hs
  exact ⟨sym, hmem, hf.entry sym hmem, decodeSymbol_of_lookup hp hf.small hs⟩

/-- A decode that completes takes a symbol of the table and only the reader moves, by the symbol's length (R164). -/
theorem decodeSymbol_ok {k : TableKind} {sym : Nat} {s t : State} (h : decodeSymbol k s = .ok sym t) :
    (s.table k).present = true ∧ sym ∈ (s.table k).tab ∧ lenAt (s.table k).lens sym ≤ s.br.stream.length ∧
      ∃ q, t = s.setBr q ∧ s.br.Advanced q (lenAt (s.table k).lens sym) := by
  unfold decodeSymbol at h
  split at h
  · next hp =>
    obtain ⟨idx, u, hu, h⟩ := Op.bind_ok_iff.1 h
    obtain ⟨rfl, -⟩ := peekBits_ok hu
    obtain ⟨sym', u, hl, h⟩ := Op.bind_ok_iff.1 h
    unfold lookupSymbol at hl
    split at hl
    · next x hx =>
      cases hl
      obtain ⟨v, u, hr, h⟩ := Op.bind_ok_iff.1 h
      obtain ⟨hn, -, q, rfl, ha⟩ := readBits_ok hr
      cases h
      exact ⟨hp, List.mem_of_getElem? hx, hn, q, rfl, ha⟩
    · cases hl
  · cases h

/-- Every code of a table built from its lengths decodes to its symbol, whatever follows it (R101, R163, R167). -/
theorem decodeSymbol_code {k : TableKind} {sym : Nat} {s : State} (hb : (s.table k).build k = .ok (s.table k))
    (hp : (s.table k).present = true) (hm : (s.table k).maxLength ≤ 16) (hs : lenAt (s.table k).lens sym ≠ 0)
    (hc : s.br.stream.take (lenAt (s.table k).lens sym) = codeBits (s.table k).lens sym) :
    ∃ q, decodeSymbol k s = .ok sym (s.setBr q) ∧ s.br.Advanced q (lenAt (s.table k).lens sym) := by
  rcases Table.build_ok hb with ⟨h0, hk, ht⟩ | ⟨-, -, ht⟩
  swap
  · rw [ht] at hp; cases hp
  have hml : (s.table k).maxLength = maxLen (s.table k).lens := congrArg Table.maxLength ht
  have htab : (s.table k).tab = tableEntries (s.table k).lens := congrArg Table.tab ht
  generalize hlens : (s.table k).lens = lens at *
  have hL : lenAt lens sym ≤ maxLen lens := lenAt_le_maxLen
  have hstream : lenAt lens sym ≤ s.br.stream.length := by
    have := congrArg List.length hc
    rw [List.length_take, codeBits, fieldBits_length] at this
    omega
  have hspan := tableEntries_span (q := 0) hs (Nat.two_pow_pos _)
  have hcode : codeOf lens sym < 2 ^ lenAt lens sym := by
    have hlt : codeStart lens sym < 2 ^ maxLen lens := by
      have := (List.getElem?_eq_some_iff.1 hspan).1
      rw [tableEntries, entries_length, allSpans_fillOrder, hk] at this
      omega
    rw [codeOf]
    refine Nat.div_lt_of_lt_mul ?_
    rw [← Nat.pow_add]
    rwa [Nat.sub_add_cancel hL]
  have hidx : bitsValue (s.br.peekStream.take (maxLen lens)) =
      codeStart lens sym + bitsValue ((s.br.peekStream.drop (lenAt lens sym)).take (maxLen lens - lenAt lens sym)) := by
    have h1 : maxLen lens = lenAt lens sym + (maxLen lens - lenAt lens sym) := by omega
    conv_lhs => rw [h1]
    rw [List.take_add, bitsValue_append, Reader.peekStream_take (by omega) hstream, hc, codeBits, bitsValue_fieldBits, Nat.mod_eq_of_lt hcode,
      List.length_take, List.length_drop, Reader.peekStream_length, min_eq_left (by omega), codeOf_mul]
  have hrest : bitsValue ((s.br.peekStream.drop (lenAt lens sym)).take (maxLen lens - lenAt lens sym)) < 2 ^ (maxLen lens - lenAt lens sym) := by
    refine lt_of_lt_of_le (bitsValue_lt _) (Nat.pow_le_pow_right (by omega) ?_)
    rw [List.length_take]
    exact min_le_left _ _
  have hlook := decodeSymbol_of_lookup (k := k) (sym := sym) (s := s) hp hm (by rw [hml, htab, hidx]; exact tableEntries_span hs hrest)
  rw [hlens] at hlook
  rcases hlook with ⟨-, h⟩ | ⟨h, -⟩
  · exact h
  · omega

end Sys2Proof.Machine
end

