-- ==== Sys2Proof/Laws/Pretree.lean ====
section
/-! SUPPORT. Laws/Pretree.lean: the runs of a table update (R181 to R187) and what one pretree symbol does to the registers. -/

namespace Sys2Proof.Machine

/-! ### Runs -/

@[simp] theorem fillRun_length (value : Nat) : ∀ (lens : List Nat) (start run : Nat), (fillRun lens start value run).length = lens.length
  | [], _, _ => rfl
  | _ :: rest, 0, run + 1 => congrArg (· + 1) (fillRun_length value rest 0 run)
  | _ :: _, 0, 0 => rfl
  | _ :: rest, start + 1, run => congrArg (· + 1) (fillRun_length value rest start run)

@[simp] theorem lenAt_cons_zero {x : Nat} {rest : List Nat} : lenAt (x :: rest) 0 = x := rfl
@[simp] theorem lenAt_cons_succ {x j : Nat} {rest : List Nat} : lenAt (x :: rest) (j + 1) = lenAt rest j := rfl

/-- A run inside the array writes its positions and no other (R181). -/
theorem lenAt_fillRun (value : Nat) : ∀ {lens : List Nat} {start run j : Nat}, start + run ≤ lens.length →
    lenAt (fillRun lens start value run) j = if start ≤ j ∧ j < start + run then value else lenAt lens j
  | [], start, run, j, h => by
    rw [List.length_nil] at h
    rw [fillRun, if_neg (by omega)]
  | x :: rest, 0, 0, j, _ => by rw [fillRun, if_neg (by omega)]
  | x :: rest, 0, run + 1, j, h => by
    rw [List.length_cons] at h
    rw [fillRun]
    cases j with
    | zero => rw [lenAt_cons_zero, if_pos (by omega)]
    | succ j =>
      rw [lenAt_cons_succ, lenAt_cons_succ, lenAt_fillRun value (by omega)]
      by_cases hj : j < run
      · rw [if_pos (by omega), if_pos (by omega)]
      · rw [if_neg (by omega), if_neg (by omega)]
  | x :: rest, start + 1, run, j, h => by
    rw [List.length_cons] at h
    rw [fillRun]
    cases j with
    | zero => rw [lenAt_cons_zero, lenAt_cons_zero, if_neg (by omega)]
    | succ j =>
      rw [lenAt_cons_succ, lenAt_cons_succ, lenAt_fillRun value (by omega)]
      by_cases hj : start ≤ j ∧ j < start + run
      · rw [if_pos hj, if_pos (by omega)]
      · rw [if_neg hj, if_neg (by omega)]

/-- Every length after a run is the run's value or an old length. -/
theorem mem_fillRun {value x : Nat} : ∀ {lens : List Nat} {start run : Nat}, x ∈ fillRun lens start value run → x = value ∨ x ∈ lens
  | [], _, _, h => .inr h
  | y :: rest, 0, 0, h => .inr h
  | y :: rest, 0, run + 1, h => by
    rw [fillRun, List.mem_cons] at h
    rcases h with h | h
    · exact .inl h
    · exact (mem_fillRun h).imp_right (List.mem_cons_of_mem _)
  | y :: rest, start + 1, run, h => by
    rw [fillRun, List.mem_cons] at h
    rcases h with h | h
    · exact .inr (h ▸ List.mem_cons_self ..)
    · exact (mem_fillRun h).imp_right (List.mem_cons_of_mem _)

theorem deltaLength_le (old code : Nat) : deltaLength old code ≤ 16 := by
  unfold deltaLength
  have := Nat.mod_lt (17 + old - code) (show 17 > 0 by decide)
  omega

/-- The delta that takes one length to another (R182, R115 (a)). -/
theorem deltaLength_back {old new : Nat} (ho : old ≤ 16) (hn : new ≤ 16) : deltaLength old ((17 + old - new) % 17) = new := by
  unfold deltaLength
  omega

/-! ### The array being updated -/

section
variable (s : State) (lens : List Nat)
@[simp] theorem State.setUpdLens_updLens : (s.setUpdLens lens).updLens = lens := by simp [State.setUpdLens, State.updLens]
@[simp] theorem State.setUpdLens_upd : (s.setUpdLens lens).upd = s.upd := by simp [State.setUpdLens]
@[simp] theorem State.setUpdLens_br : (s.setUpdLens lens).br = s.br := by simp [State.setUpdLens]
@[simp] theorem State.setUpdLens_cfg : (s.setUpdLens lens).cfg = s.cfg := by simp [State.setUpdLens]
@[simp] theorem State.setBr_updLens (r : Reader) : (s.setBr r).updLens = s.updLens := by simp [State.updLens]
end

/-- A run moves the position and changes the array, and nothing else (R181). -/
theorem State.writeRun_eq (s : State) (value run : Nat) :
    s.writeRun value run = (s.setUpdLens (fillRun s.updLens s.upd.pos value run)).setUpd { s.upd with pos := s.upd.pos + run } := rfl

@[simp] theorem State.writeRun_upd (s : State) (value run : Nat) : (s.writeRun value run).upd = { s.upd with pos := s.upd.pos + run } := rfl

@[simp] theorem State.writeRun_br (s : State) (value run : Nat) : (s.writeRun value run).br = s.br := by simp [State.writeRun_eq]

@[simp] theorem State.writeRun_cfg (s : State) (value run : Nat) : (s.writeRun value run).cfg = s.cfg := by simp [State.writeRun_eq]

@[simp] theorem State.writeRun_updLens (s : State) (value run : Nat) :
    (s.writeRun value run).updLens = fillRun s.updLens s.upd.pos value run := by
  simp [State.updLens, State.writeRun, State.setUpdLens]

/-- No other table changes. -/
theorem State.writeRun_table_other (s : State) (value run : Nat) {k : TableKind} (h : k ≠ lensKind s.upd.target) :
    (s.writeRun value run).table k = s.table k := by
  rw [State.writeRun_eq, State.setUpd_table, State.setUpdLens, State.setTable_table_other _ _ _ _ h]

/-- The array's own table changes in its lengths only (R347). -/
theorem State.writeRun_table_same (s : State) (value run : Nat) :
    (s.writeRun value run).table (lensKind s.upd.target) =
      { s.table (lensKind s.upd.target) with lens := fillRun s.updLens s.upd.pos value run } := by
  rw [State.writeRun_eq, State.setUpd_table, State.setUpdLens, State.setTable_table_same]

/-! ### One pretree symbol -/

section
variable {s t u : State}

theorem whileUpdating_ok {m : Op Unit} (h : s.upd.pos < s.upd.stop) : whileUpdating m s = m s := if_pos h

theorem ptDelta_ok {code : Nat} (h : s.upd.pos < s.upd.stop) : ptDelta code s = .ok () (s.writeRun (s.deltaHere code) 1) :=
  whileUpdating_ok h

theorem writeRunChecked_cases (value run : Nat) (s : State) :
    (s.upd.pos + run ≤ s.upd.stop ∧ writeRunChecked value run s = .ok () (s.writeRun value run)) ∨
      (s.upd.stop < s.upd.pos + run ∧ writeRunChecked value run s = .raise (.corruptTable .runOverflow)) := by
  unfold writeRunChecked
  split
  · next h => exact .inr ⟨h, rfl⟩
  · next h => exact .inl ⟨by omega, rfl⟩

/-- Pretree symbols 17 and 18, everything they can do (R183, R184, R187). -/
theorem ptZeroRun_cases (bits base : Nat) (h : s.upd.pos < s.upd.stop) :
    (∃ q, bits ≤ s.br.stream.length ∧ s.br.Advanced q bits ∧ s.upd.pos + (bitsValue (s.br.stream.take bits) + base) ≤ s.upd.stop ∧
        ptZeroRun bits base s = .ok () ((s.setBr q).writeRun 0 (bitsValue (s.br.stream.take bits) + base))) ∨
      (bits ≤ s.br.stream.length ∧ s.upd.stop < s.upd.pos + (bitsValue (s.br.stream.take bits) + base) ∧
        ptZeroRun bits base s = .raise (.corruptTable .runOverflow)) ∨
      (s.br.stream.length < bits ∧ ptZeroRun bits base s = .raise (.outOfBounds .wordFetch)) := by
  unfold ptZeroRun
  rw [whileUpdating_ok h]
  by_cases hn : bits ≤ s.br.stream.length
  · obtain ⟨q, hr, ha⟩ := readBits_of_le hn
    rw [Op.bind_of_ok hr]
    rcases writeRunChecked_cases 0 (bitsValue (s.br.stream.take bits) + base) (s.setBr q) with ⟨h1, h2⟩ | ⟨h1, h2⟩
    · exact .inl ⟨q, hn, ha, h1, h2⟩
    · exact .inr (.inl ⟨hn, h1, h2⟩)
  · exact .inr (.inr ⟨by omega, Op.bind_of_raise (readBits_of_lt (by omega))⟩)

/-- Pretree symbol 19 with its two fields read (R185). -/
theorem ptSameRun_of_reads {same code : Nat} (h : s.upd.pos < s.upd.stop) (h1 : readBits 1 s = .ok same t)
    (h2 : decodeSymbol .pre t = .ok code u) :
    ptSameRun s = if code > 16 then .raise (.corruptTable .newCode) else writeRunChecked (u.deltaHere code) (same + 4) u := by
  unfold ptSameRun
  rw [whileUpdating_ok h, Op.bind_of_ok h1]
  unfold readNewCode
  by_cases hc : code > 16
  · rw [if_pos hc, Op.bind_of_raise]
    rw [Op.bind_of_ok h2, if_pos hc]
    rfl
  · rw [if_neg hc, Op.bind_of_ok (a := code) (t := u)]
    rw [Op.bind_of_ok h2, if_neg hc]
    rfl

/-- `buildTable` changes its own table, by `Table.build`, and nothing else (R160). -/
theorem buildTable_cases (k : TableKind) (s : State) :
    (∃ v, (s.table k).build k = .ok v ∧ buildTable k s = .ok () (s.setTable k v)) ∨
      ∃ e, (s.table k).build k = .error e ∧ buildTable k s = .raise e := by
  unfold buildTable
  cases h : (s.table k).build k with
  | ok v => exact .inl ⟨v, rfl, rfl⟩
  | error e => exact .inr ⟨e, rfl, rfl⟩

end

end Sys2Proof.Machine
end

