-- ==== Sys2Proof/Laws/Memory.lean ====
section
/-! SUPPORT. Laws/Memory.lean: the window's memory keeps its canonical form, a read after a write, and equal memories are equal
lists. -/

namespace Sys2Proof.Machine

theorem memWfFrom_nil {lo : Nat} : memWfFrom lo [] = true := rfl

theorem memWfFrom_cons {lo k : Nat} {v : Byte} {rest : List Host.Cell} :
    memWfFrom lo ((k, v) :: rest) = true ↔ lo ≤ k ∧ v ≠ 0 ∧ memWfFrom (k + 1) rest = true := by
  simp [memWfFrom, and_assoc]

theorem memBelow_cons {bound k : Nat} {v : Byte} {rest : List Host.Cell} :
    memBelow bound ((k, v) :: rest) = true ↔ k < bound ∧ memBelow bound rest = true := by simp [memBelow]

theorem memWf_nil : memWf [] = true := rfl

theorem memBelow_nil {bound : Nat} : memBelow bound [] = true := rfl

theorem memRead_nil {a : Nat} : memRead [] a = 0 := rfl

theorem memRead_cons {k a : Nat} {v : Byte} {rest : List Host.Cell} :
    memRead ((k, v) :: rest) a = if k = a then v else memRead rest a := rfl

theorem memWrite_cons {k a : Nat} {v b : Byte} {rest : List Host.Cell} :
    memWrite ((k, v) :: rest) a b =
      if a < k then (if b = 0 then (k, v) :: rest else (a, b) :: (k, v) :: rest)
      else if a = k then (if b = 0 then rest else (a, b) :: rest)
      else (k, v) :: memWrite rest a b := rfl

theorem memWfFrom_mono {lo lo' : Nat} (h : lo ≤ lo') : ∀ {m : List Host.Cell}, memWfFrom lo' m = true → memWfFrom lo m = true
  | [], _ => rfl
  | (k, v) :: rest, hm => by
    obtain ⟨h1, h2, h3⟩ := memWfFrom_cons.1 hm
    exact memWfFrom_cons.2 ⟨by omega, h2, h3⟩

/-- An address below every listed one reads 0x00. -/
theorem memRead_below {lo a : Nat} (ha : a < lo) : ∀ {m : List Host.Cell}, memWfFrom lo m = true → memRead m a = 0
  | [], _ => rfl
  | (k, v) :: rest, hm => by
    obtain ⟨h1, -, h3⟩ := memWfFrom_cons.1 hm
    rw [memRead_cons, if_neg (by omega)]
    exact memRead_below (by omega) h3

/-- A write keeps the canonical form. -/
theorem memWfFrom_memWrite {a : Nat} {b : Byte} :
    ∀ {lo : Nat} {m : List Host.Cell}, lo ≤ a → memWfFrom lo m = true → memWfFrom lo (memWrite m a b) = true
  | lo, [], ha, _ => by
    unfold memWrite
    split
    · rfl
    · next hb => exact memWfFrom_cons.2 ⟨ha, hb, rfl⟩
  | lo, (k, v) :: rest, ha, hm => by
    obtain ⟨h1, h2, h3⟩ := memWfFrom_cons.1 hm
    rw [memWrite_cons]
    split
    · next hak =>
      split
      · exact hm
      · next hb => exact memWfFrom_cons.2 ⟨ha, hb, memWfFrom_cons.2 ⟨hak, h2, h3⟩⟩
    · split
      · next hak =>
        subst hak
        split
        · exact memWfFrom_mono (by omega) h3
        · next hb => exact memWfFrom_cons.2 ⟨ha, hb, h3⟩
      · exact memWfFrom_cons.2 ⟨h1, h2, memWfFrom_memWrite (by omega) h3⟩

theorem memWf_memWrite {m : List Host.Cell} {a : Nat} {b : Byte} (h : memWf m = true) : memWf (memWrite m a b) = true :=
  memWfFrom_memWrite (Nat.zero_le _) h

/-- A write lists no address at or above a bound that it and the memory are below. -/
theorem memBelow_memWrite {bound a : Nat} {b : Byte} (ha : a < bound) :
    ∀ {m : List Host.Cell}, memBelow bound m = true → memBelow bound (memWrite m a b) = true
  | [], _ => by
    unfold memWrite
    split
    · rfl
    · exact memBelow_cons.2 ⟨ha, rfl⟩
  | (k, v) :: rest, hm => by
    have hm' := memBelow_cons.1 hm
    rw [memWrite_cons]
    split
    · split
      · exact hm
      · exact memBelow_cons.2 ⟨ha, hm⟩
    · split
      · split
        · exact hm'.2
        · exact memBelow_cons.2 ⟨ha, hm'.2⟩
      · exact memBelow_cons.2 ⟨hm'.1, memBelow_memWrite ha hm'.2⟩

/-- A read after a write to the same address gives the byte written. -/
theorem memRead_memWrite_same {a : Nat} {b : Byte} :
    ∀ {lo : Nat} {m : List Host.Cell}, memWfFrom lo m = true → memRead (memWrite m a b) a = b
  | _, [], _ => by
    unfold memWrite
    split
    · next hb => exact hb.symm
    · rw [memRead_cons, if_pos rfl]
  | lo, (k, v) :: rest, hm => by
    obtain ⟨-, -, h3⟩ := memWfFrom_cons.1 hm
    rw [memWrite_cons]
    split
    · next hak =>
      split
      · next hb =>
        rw [memRead_cons, if_neg (by omega), hb]
        exact memRead_below (by omega) h3
      · rw [memRead_cons, if_pos rfl]
    · split
      · next hak =>
        subst hak
        split
        · next hb => rw [hb]; exact memRead_below (Nat.lt_succ_self _) h3
        · rw [memRead_cons, if_pos rfl]
      · next hne =>
        rw [memRead_cons, if_neg fun h => hne h.symm]
        exact memRead_memWrite_same h3

/-- A write leaves every other address alone. -/
theorem memRead_memWrite_other {a c : Nat} {b : Byte} (hc : a ≠ c) :
    ∀ {m : List Host.Cell}, memRead (memWrite m a b) c = memRead m c
  | [] => by
    unfold memWrite
    split
    · rfl
    · rw [memRead_cons, if_neg hc]
  | (k, v) :: rest => by
    rw [memWrite_cons]
    split
    · split
      · rfl
      · rw [memRead_cons, if_neg hc]
    · split
      · next hak =>
        subst hak
        split
        · rw [memRead_cons, if_neg hc]
        · rw [memRead_cons, memRead_cons, if_neg hc, if_neg hc]
      · rw [memRead_cons, memRead_cons, memRead_memWrite_other hc]

/-- Two canonical memories that read alike are the same list. -/
theorem memWfFrom_ext : ∀ {lo : Nat} {m n : List Host.Cell}, memWfFrom lo m = true → memWfFrom lo n = true →
    (∀ a, memRead m a = memRead n a) → m = n
  | _, [], [], _, _, _ => rfl
  | _, [], (k, v) :: rest, _, hn, h => by
    have := h k
    rw [memRead_nil, memRead_cons, if_pos rfl] at this
    exact absurd this.symm (memWfFrom_cons.1 hn).2.1
  | _, (k, v) :: rest, [], hm, _, h => by
    have := h k
    rw [memRead_nil, memRead_cons, if_pos rfl] at this
    exact absurd this (memWfFrom_cons.1 hm).2.1
  | lo, (k, v) :: m, (j, w) :: n, hm, hn, h => by
    obtain ⟨-, hv, hm3⟩ := memWfFrom_cons.1 hm
    obtain ⟨-, hw, hn3⟩ := memWfFrom_cons.1 hn
    have hkj : k = j := by
      rcases Nat.lt_trichotomy k j with hlt | heq | hgt
      · have h1 := h k
        rw [memRead_cons, if_pos rfl, memRead_cons, if_neg (by omega), memRead_below (by omega) hn3] at h1
        exact absurd h1 hv
      · exact heq
      · have h1 := h j
        rw [memRead_cons, if_neg (by omega), memRead_cons, if_pos rfl, memRead_below (by omega) hm3] at h1
        exact absurd h1.symm hw
    subst hkj
    have hvw := h k
    rw [memRead_cons, if_pos rfl, memRead_cons, if_pos rfl] at hvw
    subst hvw
    have hrest : m = n := memWfFrom_ext hm3 hn3 fun a => by
      by_cases ha : k = a
      · subst ha; rw [memRead_below (Nat.lt_succ_self _) hm3, memRead_below (Nat.lt_succ_self _) hn3]
      · have := h a
        rwa [memRead_cons, if_neg ha, memRead_cons, if_neg ha] at this
    rw [hrest]

theorem memWf_ext {m n : List Host.Cell} (hm : memWf m = true) (hn : memWf n = true) (h : ∀ a, memRead m a = memRead n a) :
    m = n := memWfFrom_ext hm hn h

/-- The reset window has the canonical form. -/
theorem reset_memWf : memWf State.reset.win.cells = true := rfl

end Sys2Proof.Machine
end

