-- ==== Sys2Proof/Laws/Window.lean ====
section
/-! SUPPORT. Laws/Window.lean: the window operations keep the window's invariant, and what they do to its history (R40, R240 to
R247). -/

namespace Sys2Proof.Machine

/-- The address `k` back, without the modulus. -/
theorem back_address {pos size k : Nat} (hp : pos < size) (hk : k ≤ size) (h1 : 1 ≤ k) :
    (pos + size - k) % size = if k ≤ pos then pos - k else pos + size - k := by
  split
  · rw [show pos + size - k = (pos - k) + size by omega, Nat.add_mod_right, Nat.mod_eq_of_lt (by omega)]
  · exact Nat.mod_eq_of_lt (by omega)

theorem next_position {pos size : Nat} (hp : pos < size) : (pos + 1) % size = if pos + 1 = size then 0 else pos + 1 := by
  split
  · next h => rw [h, Nat.mod_self]
  · exact Nat.mod_eq_of_lt (by omega)

section
variable {w : Window} {size : Nat} {b : Byte}

theorem Window.Wf.push (h : w.Wf size) : (w.push size b).Wf size :=
  ⟨memWf_memWrite h.canonical, memBelow_memWrite h.position h.inside, Nat.mod_lt _ (by have := h.position; omega)⟩

/-- After a push the byte is one back and everything else one further (R240). -/
theorem Window.history_push (h : w.Wf size) {k : Nat} (h1 : 1 ≤ k) (hk : k ≤ size) :
    (w.push size b).history size k = if k = 1 then b else w.history size (k - 1) := by
  have hp := h.position
  have hp' : (w.pos + 1) % size < size := Nat.mod_lt _ (by omega)
  rw [Window.history, Window.push]
  simp only
  rw [back_address hp' hk h1, next_position hp]
  by_cases hk1 : k = 1
  · rw [if_pos hk1]
    have : (if k ≤ (if w.pos + 1 = size then 0 else w.pos + 1) then (if w.pos + 1 = size then 0 else w.pos + 1) - k
        else (if w.pos + 1 = size then 0 else w.pos + 1) + size - k) = w.pos := by
      subst hk1
      by_cases hw : w.pos + 1 = size <;> simp only [hw, if_true, if_false] <;> split <;> omega
    rw [this]
    exact memRead_memWrite_same h.canonical
  · rw [if_neg hk1, Window.history, back_address hp (by omega) (by omega)]
    have : (if k ≤ (if w.pos + 1 = size then 0 else w.pos + 1) then (if w.pos + 1 = size then 0 else w.pos + 1) - k
        else (if w.pos + 1 = size then 0 else w.pos + 1) + size - k) = if k - 1 ≤ w.pos then w.pos - (k - 1) else w.pos + size - (k - 1) := by
      by_cases hw : w.pos + 1 = size <;> simp only [hw, if_true, if_false] <;> split <;> split <;> omega
    rw [this]
    exact memRead_memWrite_other (by split <;> omega)

theorem Window.push_pos (w : Window) (size : Nat) (b : Byte) : (w.push size b).pos = (w.pos + 1) % size := rfl

theorem Window.Wf.copy (offset : Nat) : ∀ {n : Nat} {w : Window}, w.Wf size → (w.copy size offset n).Wf size
  | 0, _, h => h
  | n + 1, w, h => Window.Wf.copy offset (n := n) (w := w.push size (w.history size offset)) h.push

theorem Window.Wf.pushAll : ∀ {bs : List Byte} {w : Window}, w.Wf size → (w.pushAll size bs).Wf size
  | [], _, h => h
  | b :: bs, w, h => Window.Wf.pushAll (bs := bs) (w := w.push size b) h.push

theorem Window.pushAll_append : ∀ {as bs : List Byte} {w : Window}, w.pushAll size (as ++ bs) = (w.pushAll size as).pushAll size bs
  | [], _, _ => rfl
  | a :: as, bs, w => Window.pushAll_append (as := as) (bs := bs) (w := w.push size a)

theorem Window.pushAll_pos : ∀ {bs : List Byte} {w : Window}, w.pos < size → (w.pushAll size bs).pos = (w.pos + bs.length) % size
  | [], w, h => by simp [Window.pushAll, Nat.mod_eq_of_lt h]
  | b :: bs, w, h => by
    rw [Window.pushAll, Window.pushAll_pos (Nat.mod_lt _ (by omega)), Window.push_pos, Nat.mod_add_mod, List.length_cons]
    congr 1
    omega

/-- A copy is the pushes of the bytes it copies. -/
theorem Window.copy_eq_pushAll (offset : Nat) : ∀ (n : Nat) (w : Window), ∃ bs : List Byte, bs.length = n ∧ w.copy size offset n = w.pushAll size bs
  | 0, w => ⟨[], rfl, rfl⟩
  | n + 1, w => by
    obtain ⟨bs, hl, hb⟩ := Window.copy_eq_pushAll offset n (w.push size (w.history size offset))
    exact ⟨w.history size offset :: bs, by rw [List.length_cons, hl], by rw [Window.copy, hb, Window.pushAll]⟩

/-- The addresses a run of pushes does not write to keep their bytes (R240). -/
theorem Window.memRead_pushAll : ∀ {bs : List Byte} {w : Window} {a : Nat}, w.pos < size → ¬w.writes size bs.length a →
    memRead (w.pushAll size bs).cells a = memRead w.cells a
  | [], _, _, _, _ => rfl
  | b :: bs, w, a, hp, ha => by
    rw [Window.pushAll, Window.memRead_pushAll (Nat.mod_lt _ (by omega))]
    · refine memRead_memWrite_other fun h => ha ⟨0, by simp, ?_⟩
      rw [Nat.add_zero, Nat.mod_eq_of_lt hp]
      exact h.symm
    · rintro ⟨j, hj, hj'⟩
      refine ha ⟨j + 1, by rw [List.length_cons]; omega, ?_⟩
      rw [hj', Window.push_pos, Nat.mod_add_mod]
      congr 1
      omega

/-- The history after a run of pushes (R240, R247). -/
theorem Window.history_pushAll : ∀ {bs : List Byte} {w : Window} {k : Nat}, w.Wf size → 1 ≤ k → k ≤ size →
    (w.pushAll size bs).history size k = if k ≤ bs.length then bs.getD (bs.length - k) 0 else w.history size (k - bs.length)
  | [], w, k, _, h1, _ => by
    rw [Window.pushAll, List.length_nil, if_neg (by omega)]
    rfl
  | b :: bs, w, k, h, h1, hk => by
    rw [Window.pushAll, Window.history_pushAll h.push h1 hk, List.length_cons]
    by_cases hle : k ≤ bs.length
    · rw [if_pos hle, if_pos (by omega), show bs.length + 1 - k = (bs.length - k) + 1 by omega, List.getD_cons_succ]
    · rw [if_neg hle, Window.history_push h (by omega) (by omega)]
      by_cases he : k = bs.length + 1
      · rw [if_pos (by omega), if_pos (by omega), show bs.length + 1 - k = 0 by omega]
        rfl
      · rw [if_neg (by omega), if_neg (by omega)]
        congr 1

/-- The view of the last `n` pushed bytes is those bytes (R245, R270). -/
theorem Window.view_pushAll {bs : List Byte} (h : w.Wf size) (hn : bs.length ≤ size) : (w.pushAll size bs).view size bs.length = bs := by
  unfold Window.view
  refine List.ext_getElem (by simp) fun k h1 h2 => ?_
  rw [List.getElem_map, List.getElem_range, Window.history_pushAll h (by omega) (by omega), if_pos (by omega),
    show bs.length - (bs.length - k) = k by omega, List.getD_eq_getElem _ _ h2]

/-- The history after a copy: its `j`-th byte repeats the last `offset` bytes before it, period `offset` (R241). -/
theorem Window.history_copy {offset : Nat} (h1 : 1 ≤ offset) (ho : offset ≤ size) : ∀ {n : Nat} {w : Window} {k : Nat}, w.Wf size → 1 ≤ k →
    k ≤ size →
    (w.copy size offset n).history size k = if k ≤ n then w.history size (offset - (n - k) % offset) else w.history size (k - n)
  | 0, w, k, _, hk, _ => by
    rw [Window.copy, if_neg (by omega)]
    rfl
  | n + 1, w, k, hw, hk, hks => by
    have hm : (n - k) % offset < offset := Nat.mod_lt _ h1
    rw [Window.copy, Window.history_copy h1 ho hw.push hk hks]
    by_cases hle : k ≤ n
    · rw [if_pos hle, if_pos (by omega), Window.history_push hw (by omega) (by omega), show n + 1 - k = (n - k) + 1 by omega]
      by_cases he : offset - (n - k) % offset = 1
      · have : (n - k + 1) % offset = 0 := by
          rw [Nat.add_mod, show (n - k) % offset = offset - 1 by omega]
          rcases Nat.lt_or_ge 1 offset with h2 | h2
          · rw [Nat.mod_eq_of_lt h2, Nat.sub_add_cancel h1, Nat.mod_self]
          · rw [show offset = 1 by omega]
        rw [if_pos he, this, Nat.sub_zero]
      · have : (n - k + 1) % offset = (n - k) % offset + 1 := by
          rw [Nat.add_mod, Nat.mod_eq_of_lt (show 1 < offset by omega), Nat.mod_eq_of_lt (by omega)]
        rw [if_neg he, this]
        congr 1
    · rw [if_neg hle, Window.history_push hw (by omega) (by omega)]
      by_cases he : k = n + 1
      · rw [if_pos (by omega), if_pos (by omega), show n + 1 - k = 0 by omega, Nat.zero_mod, Nat.sub_zero]
      · rw [if_neg (by omega), if_neg (by omega)]
        congr 1

/-! ### The linear buffer (R247) -/

theorem Window.Holds.push {out : List Byte} (hw : w.Wf size) (h : w.Holds size out) : (w.push size b).Holds size (out ++ [b]) := by
  intro k h1 hk
  rw [Window.history_push hw h1 hk, linearBack, List.length_append, List.length_singleton]
  by_cases he : k = 1
  · subst he
    rw [if_pos rfl, if_pos (by omega), Nat.add_sub_cancel, List.getD_append_right _ _ _ _ (Nat.le_refl _), Nat.sub_self]
    rfl
  · rw [if_neg he, h (k - 1) (by omega) (by omega), linearBack]
    by_cases hle : k - 1 ≤ out.length
    · rw [if_pos hle, if_pos (by omega), show out.length + 1 - k = out.length - (k - 1) by omega,
        List.getD_append _ _ _ _ (by omega)]
    · rw [if_neg hle, if_neg (by omega)]

theorem Window.Holds.copy {offset : Nat} (h1 : 1 ≤ offset) (ho : offset ≤ size) : ∀ {n : Nat} {w : Window} {out : List Byte}, w.Wf size →
    w.Holds size out → (w.copy size offset n).Holds size (linearCopy out offset n)
  | 0, _, _, _, h => h
  | n + 1, w, out, hw, h => by
    rw [Window.copy, linearCopy, h offset h1 ho]
    exact Window.Holds.copy h1 ho hw.push (h.push hw)

theorem Window.Holds.pushAll : ∀ {bs : List Byte} {w : Window} {out : List Byte}, w.Wf size → w.Holds size out →
    (w.pushAll size bs).Holds size (out ++ bs)
  | [], _, _, _, h => by rw [List.append_nil]; exact h
  | b :: bs, w, out, hw, h => by
    rw [Window.pushAll, show out ++ b :: bs = (out ++ [b]) ++ bs by simp]
    exact Window.Holds.pushAll hw.push (h.push hw)

theorem Window.Holds.view {out : List Byte} {n : Nat} (h : w.Holds size out) (hn : n ≤ size) : w.view size n = linearView out n := by
  refine List.map_congr_left fun k hk => ?_
  have := List.mem_range.1 hk
  exact h (n - k) (by omega) (by omega)

end

/-! ### On a state -/

theorem copyFromSelf_ok {offset length : Nat} {s : State} (h1 : 1 ≤ offset) (h : offset ≤ s.cfg.windowSize) :
    copyFromSelf offset length s = .ok () (s.setWin (s.win.copy s.cfg.windowSize offset length)) := by
  rw [copyFromSelf, if_neg (by omega), if_neg (by omega)]

theorem copyFromSelf_cases {offset length : Nat} {s : State} :
    (1 ≤ offset ∧ offset ≤ s.cfg.windowSize ∧
        copyFromSelf offset length s = .ok () (s.setWin (s.win.copy s.cfg.windowSize offset length))) ∨
      (offset = 0 ∧ copyFromSelf offset length s = .raise .windowRangeZero) ∨
      (s.cfg.windowSize < offset ∧ copyFromSelf offset length s = .raise .windowRangeAbove) := by
  unfold copyFromSelf
  split
  · exact .inr (.inl ⟨by omega, rfl⟩)
  · split
    · exact .inr (.inr ⟨by omega, rfl⟩)
    · exact .inl ⟨by omega, by omega, rfl⟩

/-- `readBytes` on a state (R138). -/
theorem readBytes_ok {n : Nat} {s : State} (h : s.br.bytePos + n ≤ s.br.len) :
    readBytes n s = .ok ((List.range n).map fun k => s.br.byteAt (s.br.bytePos + k)) (s.setBr { s.br with bytePos := s.br.bytePos + n }) :=
  onReader_of_ok (by rw [Reader.readBytes, if_neg (by omega)])

theorem readBytes_raise {n : Nat} {s : State} (h : s.br.len < s.br.bytePos + n) : readBytes n s = .raise (.outOfBounds .bytesRead) :=
  onReader_of_error (by rw [Reader.readBytes, if_pos (by omega)])

theorem copyFromBitstream_ok {n : Nat} {s : State} (h : s.br.bytePos + n ≤ s.br.len) :
    copyFromBitstream n s =
      .ok () ((s.setBr { s.br with bytePos := s.br.bytePos + n }).setWin
        (s.win.pushAll s.cfg.windowSize ((List.range n).map fun k => s.br.byteAt (s.br.bytePos + k)))) := by
  rw [copyFromBitstream, Op.bind_of_ok (readBytes_ok h)]
  rfl

end Sys2Proof.Machine
end

