-- ==== Sys2Proof/Laws/Element.lean ====
section
/-! SUPPORT. Laws/Element.lean: the parts of an element, each with everything it can do (R207 to R217, R268, R269). -/

namespace Sys2Proof.Machine

variable {s t : State}

/-! ### Accounting (R269) -/

theorem account_cases (n : Nat) (s : State) :
    (n ≤ s.blk.remaining ∧ account n s =
        .ok () ((s.setBlk { s.blk with remaining := s.blk.remaining - n }).setCmd { s.cmd with produced := s.cmd.produced + n })) ∨
      (s.blk.remaining < n ∧ account n s = .raise .decodeOverrun) := by
  unfold account
  split
  · next h => exact .inr ⟨h, rfl⟩
  · next h => exact .inl ⟨by omega, rfl⟩

/-- Applying an element changes the reader and the window only (R268). -/
theorem applyElement_ok {e : Element} (h : applyElement e s = .ok () t) : ∃ r w, t = (s.setBr r).setWin w := by
  cases e with
  | literal b => cases h; exact ⟨s.br, _, rfl⟩
  | matched offset length =>
    rcases copyFromSelf_cases (offset := offset.toNat) (length := length) (s := s) with ⟨-, -, hc⟩ | ⟨-, hc⟩ | ⟨-, hc⟩ <;>
      rw [applyElement, hc] at h
    · cases h; exact ⟨s.br, _, rfl⟩
    · cases h
    · cases h
  | bulkRead n =>
    by_cases hn : s.br.bytePos + n ≤ s.br.len
    · rw [applyElement, copyFromBitstream_ok hn] at h; cases h; exact ⟨_, _, rfl⟩
    · rw [applyElement, copyFromBitstream, Op.bind_of_raise (readBytes_raise (by omega))] at h; cases h

/-- Taking an element changes the reader, the window, the block's debt and the command's count, and nothing else (R268, R269). -/
theorem takeElement_ok {e : Element} (h : takeElement e s = .ok () t) :
    e.length ≤ s.blk.remaining ∧ ∃ r w, t = (((s.setBr r).setWin w).setBlk { s.blk with remaining := s.blk.remaining - e.length }).setCmd
      { s.cmd with produced := s.cmd.produced + e.length } := by
  obtain ⟨_, u, ha, h⟩ := Op.andThen_ok_iff.1 h
  obtain ⟨r, w, rfl⟩ := applyElement_ok ha
  rcases account_cases e.length ((s.setBr r).setWin w) with ⟨hle, hc⟩ | ⟨-, hc⟩ <;> rw [hc] at h <;> cases h
  exact ⟨hle, r, w, rfl⟩

/-! ### Match length (R210) -/

theorem lengthHeader_short {lh : Nat} (h : lh ≠ 7) : lengthHeader lh s = .ok () (s.setElt { s.elt with length := lh + 2 }) := by
  rw [lengthHeader, if_neg h]
  rfl

theorem lengthHeader_long {n : Nat} (h : decodeSymbol .len s = .ok n t) :
    lengthHeader 7 s = .ok () (t.setElt { t.elt with length := n + 7 + 2 }) := by
  rw [lengthHeader, if_pos rfl, Op.bind_of_ok h]
  rfl

/-- A length changes the reader and the match's own length only (R210). -/
theorem lengthHeader_ok {lh : Nat} (h : lengthHeader lh s = .ok () t) :
    ∃ r n, t = (s.setBr r).setElt { s.elt with length := n } ∧ 2 ≤ n := by
  by_cases h7 : lh = 7
  · subst h7
    rw [lengthHeader, if_pos rfl] at h
    obtain ⟨n, u, hd, h⟩ := Op.bind_ok_iff.1 h
    obtain ⟨-, -, -, q, rfl, -⟩ := decodeSymbol_ok hd
    cases h
    exact ⟨q, _, rfl, by simp [longLength]⟩
  · rw [lengthHeader_short h7] at h
    cases h
    exact ⟨s.br, lh + 2, rfl, by omega⟩

/-! ### Match offset (R211 to R217) -/

theorem newOffset_eq (offset : Word32) (s : State) :
    newOffset offset s = .ok () ((s.setElt { s.elt with offset := offset }).setRep ⟨offset, s.rep.r0, s.rep.r1⟩) := rfl

theorem matchOffset0_eq (s : State) : matchOffset0 s = .ok () (s.setElt { s.elt with offset := s.rep.r0 }) := rfl

theorem matchOffset1_eq (s : State) :
    matchOffset1 s = .ok () ((s.setRep ⟨s.rep.r1, s.rep.r0, s.rep.r2⟩).setElt { s.elt with offset := s.rep.r1 }) := rfl

theorem matchOffset2_eq (s : State) :
    matchOffset2 s = .ok () ((s.setRep ⟨s.rep.r2, s.rep.r1, s.rep.r0⟩).setElt { s.elt with offset := s.rep.r2 }) := rfl

theorem readRawOffsetBits_ok (h : readRawOffsetBits s = .ok () t) :
    ∃ q, t = (s.setBr q).setElt { s.elt with v := bitsValue (s.br.stream.take (s.rawOffsetBits s.elt.slot)) } ∧
      s.br.Advanced q (s.rawOffsetBits s.elt.slot) ∧ s.rawOffsetBits s.elt.slot ≤ s.br.stream.length := by
  obtain ⟨v, u, hr, h⟩ := Op.bind_ok_iff.1 h
  obtain ⟨hn, hv, q, rfl, ha⟩ := readBits_ok hr
  subst hv
  cases h
  exact ⟨q, rfl, ha, hn⟩

/-- The footer field changes the reader, the cache and the match's own locals only (R105, R106). -/
theorem footerField_ok (h : footerField s = .ok () t) : ∃ r c e, t = ((s.setBr r).setRep c).setElt e ∧ e.length = s.elt.length := by
  obtain ⟨_, u, hr, h⟩ := Op.andThen_ok_iff.1 h
  obtain ⟨q, rfl, -, -⟩ := readRawOffsetBits_ok hr
  split at h
  · cases h; exact ⟨q, s.rep, _, rfl, rfl⟩
  · rw [verbatimOffsetDone, newOffset_eq] at h; cases h; exact ⟨q, _, _, rfl, rfl⟩

/-- An offset changes the reader, the cache and the match's own locals only (R211 to R217). -/
theorem matchOffset_ok {slot : Nat} (h : matchOffset slot s = .ok () t) :
    ∃ r c e, t = ((s.setBr r).setRep c).setElt e ∧ e.length = s.elt.length := by
  match slot, h with
  | 0, h => rw [matchOffset, matchOffset0_eq] at h; cases h; exact ⟨s.br, s.rep, _, rfl, rfl⟩
  | 1, h => rw [matchOffset, matchOffset1_eq] at h; cases h; exact ⟨s.br, _, _, rfl, rfl⟩
  | 2, h => rw [matchOffset, matchOffset2_eq] at h; cases h; exact ⟨s.br, _, _, rfl, rfl⟩
  | slot + 3, h =>
    rw [matchOffset] at h
    · obtain ⟨_, u, hs, h⟩ := Op.andThen_ok_iff.1 h
      cases hs
      obtain ⟨_, u, hf, h⟩ := Op.andThen_ok_iff.1 h
      obtain ⟨r, c, e, rfl, he⟩ := footerField_ok hf
      split at h
      · obtain ⟨a, w, hd, h⟩ := Op.bind_ok_iff.1 h
        obtain ⟨-, -, -, p, rfl, -⟩ := decodeSymbol_ok hd
        rw [alignedSymbol, newOffset_eq] at h
        cases h
        exact ⟨p, _, _, rfl, he⟩
      · cases h; exact ⟨r, c, e, rfl, he⟩
    all_goals (intro h0; omega)

end Sys2Proof.Machine
end

