-- ==== Sys2Proof/Laws/Packing.lean ====
section
/-! SUPPORT. Laws/Packing.lean: the bytes of a stream listing carry its bits (R64, R65, R113). -/

namespace Sys2Proof.Machine

theorem Reader.wordAt_load_drop (b0 b1 : Byte) (rest : List Byte) (a : Nat) :
    (Reader.load (b0 :: b1 :: rest)).wordAt (a + 2) = (Reader.load rest).wordAt a := rfl

theorem Reader.wordBits_load_drop (b0 b1 : Byte) (rest : List Byte) : ∀ k a : Nat,
    (Reader.load (b0 :: b1 :: rest)).wordBits k (a + 2) = (Reader.load rest).wordBits k a
  | 0, _ => rfl
  | k + 1, a => by rw [Reader.wordBits, Reader.wordBits, Reader.wordAt_load_drop, Reader.wordBits_load_drop b0 b1 rest k (a + 2)]

/-- A fresh reader delivers the first word's bits, then the rest's (R64). -/
theorem Reader.stream_load_cons (b0 b1 : Byte) (rest : List Byte) :
    (Reader.load (b0 :: b1 :: rest)).stream = fieldBits 16 (b1 ++ b0 : Word16).toNat ++ (Reader.load rest).stream := by
  have h : (rest.length + 1 + 1 - 0) / 2 = (rest.length - 0) / 2 + 1 := by omega
  show ([] : List Bool) ++ (Reader.load (b0 :: b1 :: rest)).wordBits ((rest.length + 1 + 1 - 0) / 2) 0 = _
  rw [h, List.nil_append, Reader.wordBits, Reader.wordBits_load_drop b0 b1 rest _ 0]
  rfl

theorem word_bytes (v : Word16) : (v.extractLsb' 8 8 ++ v.extractLsb' 0 8 : Word16) = v := by
  apply BitVec.eq_of_getLsbD_eq
  intro i hi
  rw [BitVec.getLsbD_append, BitVec.getLsbD_extractLsb', BitVec.getLsbD_extractLsb']
  by_cases h : i < 8
  · simp [h]
  · simp [h, show i - 8 < 8 by omega, show 8 + (i - 8) = i by omega]

theorem fieldBits_word (bits : List Bool) (h : bits.length = 16) : fieldBits 16 (BitVec.ofNat 16 (bitsValue bits) : Word16).toNat = bits := by
  have hv := bitsValue_lt bits
  rw [h] at hv
  rw [BitVec.toNat_ofNat, Nat.mod_eq_of_lt hv, ← h]
  exact fieldBits_bitsValue bits

/-- A fresh reader on the bytes of some bits, with other bytes behind them, delivers the bits, the padding to the word, and the rest. -/
theorem Reader.stream_load_packWords (tail : List Byte) : ∀ (n : Nat) (bits : List Bool), bits.length ≤ n →
    ∃ pad, pad < 16 ∧ (bits.length + pad) % 16 = 0 ∧
      (Reader.load (packWords n bits ++ tail)).stream = bits ++ List.replicate pad false ++ (Reader.load tail).stream
  | 0, bits, h => by
    obtain rfl := List.length_eq_zero_iff.1 (Nat.le_zero.1 h)
    exact ⟨0, by omega, rfl, rfl⟩
  | n + 1, [], _ => ⟨0, by omega, rfl, rfl⟩
  | n + 1, b :: bs, h => by
    have hd : ((b :: bs).drop 16).length ≤ n := by
      rw [List.length_drop, List.length_cons] at *
      omega
    obtain ⟨pad, hp, hm, hs⟩ := Reader.stream_load_packWords tail n ((b :: bs).drop 16) hd
    have h16 : (((b :: bs) ++ List.replicate 16 false).take 16).length = 16 := by simp
    have key : (Reader.load (packWords (n + 1) (b :: bs) ++ tail)).stream =
        ((b :: bs) ++ List.replicate 16 false).take 16 ++ ((b :: bs).drop 16 ++ List.replicate pad false ++ (Reader.load tail).stream) := by
      rw [← hs]
      show (Reader.load (_ :: _ :: (packWords n ((b :: bs).drop 16) ++ tail))).stream = _
      rw [Reader.stream_load_cons, word_bytes, fieldBits_word _ h16]
    by_cases hl : 16 ≤ (b :: bs).length
    · refine ⟨pad, hp, ?_, ?_⟩
      · rw [List.length_drop] at hm
        omega
      · rw [key, List.take_append_of_le_length hl]
        conv_rhs => rw [← List.take_append_drop 16 (b :: bs)]
        simp only [List.append_assoc]
    · have hnil : (b :: bs).drop 16 = [] := List.drop_eq_nil_of_le (by omega)
      rw [hnil, List.length_nil] at hm
      have hpad : pad = 0 := by omega
      refine ⟨16 - (b :: bs).length, by rw [List.length_cons]; omega, by omega, ?_⟩
      rw [key, hnil, hpad, List.take_append, List.take_of_length_le (by omega), List.take_replicate, Nat.min_eq_left (by omega)]
      rfl

theorem Reader.stream_load_bytesOfBits (bits : List Bool) (tail : List Byte) : ∃ pad, pad < 16 ∧ (bits.length + pad) % 16 = 0 ∧
    (Reader.load (bytesOfBits bits ++ tail)).stream = bits ++ List.replicate pad false ++ (Reader.load tail).stream :=
  Reader.stream_load_packWords tail bits.length bits (Nat.le_refl _)

end Sys2Proof.Machine
end

