-- ==== Sys2Proof/Laws/PerInstr.lean ====
section
/-! SUPPORT. Laws/PerInstr.lean: the family `EncodeWidth`: an instruction's pattern fits its format (R92 to R106), one lemma a
constructor. -/

namespace Sys2Proof.Laws

/-- The instruction's pattern, where it has one, has no bit above its format's width. -/
def EncodeWidth.Statement (i : Instr) : Prop := ∀ f w, encode i = some (f, w) → w < 2 ^ f.width

theorem EncodeWidth.of_none {i : Instr} (h : encode i = none) : EncodeWidth.Statement i := by
  intro f w hw
  rw [h] at hw
  cases hw

theorem EncodeWidth.of_some {i : Instr} {f : Format} {w : Nat} (h : encode i = some (f, w)) (hw : w < 2 ^ f.width) :
    EncodeWidth.Statement i := by
  intro g v hv
  rw [h] at hv
  cases hv
  exact hw

theorem headerWord_lt {tag : Nat} (size : BitVec 24) (h : tag ≤ 7) : headerWord tag size < 2 ^ 27 := by
  have := size.isLt
  unfold headerWord
  omega

theorem matchWord_lt {slot : Nat} (lh : BitVec 3) (h : slot < 98) : matchWord slot lh < 2 ^ 11 := by
  have := lh.isLt
  unfold matchWord
  omega

theorem rValuesWord_lt (r0 r1 r2 : BitVec 32) : rValuesWord r0 r1 r2 < 2 ^ 96 := by
  have := r0.isLt
  have := r1.isLt
  have := r2.isLt
  unfold rValuesWord
  omega

theorem EncodeWidth.e8Clear : EncodeWidth.Statement .e8Clear := EncodeWidth.of_some rfl (by decide)
theorem EncodeWidth.e8Set : EncodeWidth.Statement .e8Set := EncodeWidth.of_some rfl (by decide)
theorem EncodeWidth.blockInvalid0 (size : BitVec 24) : EncodeWidth.Statement (.blockInvalid0 size) := EncodeWidth.of_some rfl (headerWord_lt size (by decide))
theorem EncodeWidth.blockVerbatim (size : BitVec 24) : EncodeWidth.Statement (.blockVerbatim size) := EncodeWidth.of_some rfl (headerWord_lt size (by decide))
theorem EncodeWidth.blockAligned (size : BitVec 24) : EncodeWidth.Statement (.blockAligned size) := EncodeWidth.of_some rfl (headerWord_lt size (by decide))
theorem EncodeWidth.blockUncompressed (size : BitVec 24) : EncodeWidth.Statement (.blockUncompressed size) := EncodeWidth.of_some rfl (headerWord_lt size (by decide))
theorem EncodeWidth.blockInvalid4 (size : BitVec 24) : EncodeWidth.Statement (.blockInvalid4 size) := EncodeWidth.of_some rfl (headerWord_lt size (by decide))
theorem EncodeWidth.blockInvalid5 (size : BitVec 24) : EncodeWidth.Statement (.blockInvalid5 size) := EncodeWidth.of_some rfl (headerWord_lt size (by decide))
theorem EncodeWidth.blockInvalid6 (size : BitVec 24) : EncodeWidth.Statement (.blockInvalid6 size) := EncodeWidth.of_some rfl (headerWord_lt size (by decide))
theorem EncodeWidth.blockInvalid7 (size : BitVec 24) : EncodeWidth.Statement (.blockInvalid7 size) := EncodeWidth.of_some rfl (headerWord_lt size (by decide))
theorem EncodeWidth.ptDelta0 : EncodeWidth.Statement .ptDelta0 := EncodeWidth.of_some rfl (by decide)
theorem EncodeWidth.ptDelta1 : EncodeWidth.Statement .ptDelta1 := EncodeWidth.of_some rfl (by decide)
theorem EncodeWidth.ptDelta2 : EncodeWidth.Statement .ptDelta2 := EncodeWidth.of_some rfl (by decide)
theorem EncodeWidth.ptDelta3 : EncodeWidth.Statement .ptDelta3 := EncodeWidth.of_some rfl (by decide)
theorem EncodeWidth.ptDelta4 : EncodeWidth.Statement .ptDelta4 := EncodeWidth.of_some rfl (by decide)
theorem EncodeWidth.ptDelta5 : EncodeWidth.Statement .ptDelta5 := EncodeWidth.of_some rfl (by decide)
theorem EncodeWidth.ptDelta6 : EncodeWidth.Statement .ptDelta6 := EncodeWidth.of_some rfl (by decide)
theorem EncodeWidth.ptDelta7 : EncodeWidth.Statement .ptDelta7 := EncodeWidth.of_some rfl (by decide)
theorem EncodeWidth.ptDelta8 : EncodeWidth.Statement .ptDelta8 := EncodeWidth.of_some rfl (by decide)
theorem EncodeWidth.ptDelta9 : EncodeWidth.Statement .ptDelta9 := EncodeWidth.of_some rfl (by decide)
theorem EncodeWidth.ptDelta10 : EncodeWidth.Statement .ptDelta10 := EncodeWidth.of_some rfl (by decide)
theorem EncodeWidth.ptDelta11 : EncodeWidth.Statement .ptDelta11 := EncodeWidth.of_some rfl (by decide)
theorem EncodeWidth.ptDelta12 : EncodeWidth.Statement .ptDelta12 := EncodeWidth.of_some rfl (by decide)
theorem EncodeWidth.ptDelta13 : EncodeWidth.Statement .ptDelta13 := EncodeWidth.of_some rfl (by decide)
theorem EncodeWidth.ptDelta14 : EncodeWidth.Statement .ptDelta14 := EncodeWidth.of_some rfl (by decide)
theorem EncodeWidth.ptDelta15 : EncodeWidth.Statement .ptDelta15 := EncodeWidth.of_some rfl (by decide)
theorem EncodeWidth.ptDelta16 : EncodeWidth.Statement .ptDelta16 := EncodeWidth.of_some rfl (by decide)
theorem EncodeWidth.ptZeroRunShort : EncodeWidth.Statement .ptZeroRunShort := EncodeWidth.of_some rfl (by decide)
theorem EncodeWidth.ptZeroRunLong : EncodeWidth.Statement .ptZeroRunLong := EncodeWidth.of_some rfl (by decide)
theorem EncodeWidth.ptSameRun : EncodeWidth.Statement .ptSameRun := EncodeWidth.of_some rfl (by decide)
theorem EncodeWidth.literal (byte : BitVec 8) : EncodeWidth.Statement (.literal byte) := EncodeWidth.of_some rfl (Nat.lt_trans byte.isLt (by decide))
theorem EncodeWidth.matchSlot0 (lh : BitVec 3) : EncodeWidth.Statement (.matchSlot0 lh) := EncodeWidth.of_some rfl (matchWord_lt lh (by decide))
theorem EncodeWidth.matchSlot1 (lh : BitVec 3) : EncodeWidth.Statement (.matchSlot1 lh) := EncodeWidth.of_some rfl (matchWord_lt lh (by decide))
theorem EncodeWidth.matchSlot2 (lh : BitVec 3) : EncodeWidth.Statement (.matchSlot2 lh) := EncodeWidth.of_some rfl (matchWord_lt lh (by decide))
theorem EncodeWidth.matchSlot3 (lh : BitVec 3) : EncodeWidth.Statement (.matchSlot3 lh) := EncodeWidth.of_some rfl (matchWord_lt lh (by decide))
theorem EncodeWidth.matchSlot4 (lh : BitVec 3) : EncodeWidth.Statement (.matchSlot4 lh) := EncodeWidth.of_some rfl (matchWord_lt lh (by decide))
theorem EncodeWidth.matchSlot5 (lh : BitVec 3) : EncodeWidth.Statement (.matchSlot5 lh) := EncodeWidth.of_some rfl (matchWord_lt lh (by decide))
theorem EncodeWidth.matchSlot6 (lh : BitVec 3) : EncodeWidth.Statement (.matchSlot6 lh) := EncodeWidth.of_some rfl (matchWord_lt lh (by decide))
theorem EncodeWidth.matchSlot7 (lh : BitVec 3) : EncodeWidth.Statement (.matchSlot7 lh) := EncodeWidth.of_some rfl (matchWord_lt lh (by decide))
theorem EncodeWidth.matchSlot8 (lh : BitVec 3) : EncodeWidth.Statement (.matchSlot8 lh) := EncodeWidth.of_some rfl (matchWord_lt lh (by decide))
theorem EncodeWidth.matchSlot9 (lh : BitVec 3) : EncodeWidth.Statement (.matchSlot9 lh) := EncodeWidth.of_some rfl (matchWord_lt lh (by decide))
theorem EncodeWidth.matchSlot10 (lh : BitVec 3) : EncodeWidth.Statement (.matchSlot10 lh) := EncodeWidth.of_some rfl (matchWord_lt lh (by decide))
theorem EncodeWidth.matchSlot11 (lh : BitVec 3) : EncodeWidth.Statement (.matchSlot11 lh) := EncodeWidth.of_some rfl (matchWord_lt lh (by decide))
theorem EncodeWidth.matchSlot12 (lh : BitVec 3) : EncodeWidth.Statement (.matchSlot12 lh) := EncodeWidth.of_some rfl (matchWord_lt lh (by decide))
theorem EncodeWidth.matchSlot13 (lh : BitVec 3) : EncodeWidth.Statement (.matchSlot13 lh) := EncodeWidth.of_some rfl (matchWord_lt lh (by decide))
theorem EncodeWidth.matchSlot14 (lh : BitVec 3) : EncodeWidth.Statement (.matchSlot14 lh) := EncodeWidth.of_some rfl (matchWord_lt lh (by decide))
theorem EncodeWidth.matchSlot15 (lh : BitVec 3) : EncodeWidth.Statement (.matchSlot15 lh) := EncodeWidth.of_some rfl (matchWord_lt lh (by decide))
theorem EncodeWidth.matchSlot16 (lh : BitVec 3) : EncodeWidth.Statement (.matchSlot16 lh) := EncodeWidth.of_some rfl (matchWord_lt lh (by decide))
theorem EncodeWidth.matchSlot17 (lh : BitVec 3) : EncodeWidth.Statement (.matchSlot17 lh) := EncodeWidth.of_some rfl (matchWord_lt lh (by decide))
theorem EncodeWidth.matchSlot18 (lh : BitVec 3) : EncodeWidth.Statement (.matchSlot18 lh) := EncodeWidth.of_some rfl (matchWord_lt lh (by decide))
theorem EncodeWidth.matchSlot19 (lh : BitVec 3) : EncodeWidth.Statement (.matchSlot19 lh) := EncodeWidth.of_some rfl (matchWord_lt lh (by decide))
theorem EncodeWidth.matchSlot20 (lh : BitVec 3) : EncodeWidth.Statement (.matchSlot20 lh) := EncodeWidth.of_some rfl (matchWord_lt lh (by decide))
theorem EncodeWidth.matchSlot21 (lh : BitVec 3) : EncodeWidth.Statement (.matchSlot21 lh) := EncodeWidth.of_some rfl (matchWord_lt lh (by decide))
theorem EncodeWidth.matchSlot22 (lh : BitVec 3) : EncodeWidth.Statement (.matchSlot22 lh) := EncodeWidth.of_some rfl (matchWord_lt lh (by decide))
theorem EncodeWidth.matchSlot23 (lh : BitVec 3) : EncodeWidth.Statement (.matchSlot23 lh) := EncodeWidth.of_some rfl (matchWord_lt lh (by decide))
theorem EncodeWidth.matchSlot24 (lh : BitVec 3) : EncodeWidth.Statement (.matchSlot24 lh) := EncodeWidth.of_some rfl (matchWord_lt lh (by decide))
theorem EncodeWidth.matchSlot25 (lh : BitVec 3) : EncodeWidth.Statement (.matchSlot25 lh) := EncodeWidth.of_some rfl (matchWord_lt lh (by decide))
theorem EncodeWidth.matchSlot26 (lh : BitVec 3) : EncodeWidth.Statement (.matchSlot26 lh) := EncodeWidth.of_some rfl (matchWord_lt lh (by decide))
theorem EncodeWidth.matchSlot27 (lh : BitVec 3) : EncodeWidth.Statement (.matchSlot27 lh) := EncodeWidth.of_some rfl (matchWord_lt lh (by decide))
theorem EncodeWidth.matchSlot28 (lh : BitVec 3) : EncodeWidth.Statement (.matchSlot28 lh) := EncodeWidth.of_some rfl (matchWord_lt lh (by decide))
theorem EncodeWidth.matchSlot29 (lh : BitVec 3) : EncodeWidth.Statement (.matchSlot29 lh) := EncodeWidth.of_some rfl (matchWord_lt lh (by decide))
theorem EncodeWidth.matchSlot30 (lh : BitVec 3) : EncodeWidth.Statement (.matchSlot30 lh) := EncodeWidth.of_some rfl (matchWord_lt lh (by decide))
theorem EncodeWidth.matchSlot31 (lh : BitVec 3) : EncodeWidth.Statement (.matchSlot31 lh) := EncodeWidth.of_some rfl (matchWord_lt lh (by decide))
theorem EncodeWidth.matchSlot32 (lh : BitVec 3) : EncodeWidth.Statement (.matchSlot32 lh) := EncodeWidth.of_some rfl (matchWord_lt lh (by decide))
theorem EncodeWidth.matchSlot33 (lh : BitVec 3) : EncodeWidth.Statement (.matchSlot33 lh) := EncodeWidth.of_some rfl (matchWord_lt lh (by decide))
theorem EncodeWidth.matchSlot34 (lh : BitVec 3) : EncodeWidth.Statement (.matchSlot34 lh) := EncodeWidth.of_some rfl (matchWord_lt lh (by decide))
theorem EncodeWidth.matchSlot35 (lh : BitVec 3) : EncodeWidth.Statement (.matchSlot35 lh) := EncodeWidth.of_some rfl (matchWord_lt lh (by decide))
theorem EncodeWidth.matchSlot36 (lh : BitVec 3) : EncodeWidth.Statement (.matchSlot36 lh) := EncodeWidth.of_some rfl (matchWord_lt lh (by decide))
theorem EncodeWidth.matchSlot37 (lh : BitVec 3) : EncodeWidth.Statement (.matchSlot37 lh) := EncodeWidth.of_some rfl (matchWord_lt lh (by decide))
theorem EncodeWidth.matchSlot38 (lh : BitVec 3) : EncodeWidth.Statement (.matchSlot38 lh) := EncodeWidth.of_some rfl (matchWord_lt lh (by decide))
theorem EncodeWidth.matchSlot39 (lh : BitVec 3) : EncodeWidth.Statement (.matchSlot39 lh) := EncodeWidth.of_some rfl (matchWord_lt lh (by decide))
theorem EncodeWidth.matchSlot40 (lh : BitVec 3) : EncodeWidth.Statement (.matchSlot40 lh) := EncodeWidth.of_some rfl (matchWord_lt lh (by decide))
theorem EncodeWidth.matchSlot41 (lh : BitVec 3) : EncodeWidth.Statement (.matchSlot41 lh) := EncodeWidth.of_some rfl (matchWord_lt lh (by decide))
theorem EncodeWidth.matchSlot42 (lh : BitVec 3) : EncodeWidth.Statement (.matchSlot42 lh) := EncodeWidth.of_some rfl (matchWord_lt lh (by decide))
theorem EncodeWidth.matchSlot43 (lh : BitVec 3) : EncodeWidth.Statement (.matchSlot43 lh) := EncodeWidth.of_some rfl (matchWord_lt lh (by decide))
theorem EncodeWidth.matchSlot44 (lh : BitVec 3) : EncodeWidth.Statement (.matchSlot44 lh) := EncodeWidth.of_some rfl (matchWord_lt lh (by decide))
theorem EncodeWidth.matchSlot45 (lh : BitVec 3) : EncodeWidth.Statement (.matchSlot45 lh) := EncodeWidth.of_some rfl (matchWord_lt lh (by decide))
theorem EncodeWidth.matchSlot46 (lh : BitVec 3) : EncodeWidth.Statement (.matchSlot46 lh) := EncodeWidth.of_some rfl (matchWord_lt lh (by decide))
theorem EncodeWidth.matchSlot47 (lh : BitVec 3) : EncodeWidth.Statement (.matchSlot47 lh) := EncodeWidth.of_some rfl (matchWord_lt lh (by decide))
theorem EncodeWidth.matchSlot48 (lh : BitVec 3) : EncodeWidth.Statement (.matchSlot48 lh) := EncodeWidth.of_some rfl (matchWord_lt lh (by decide))
theorem EncodeWidth.matchSlot49 (lh : BitVec 3) : EncodeWidth.Statement (.matchSlot49 lh) := EncodeWidth.of_some rfl (matchWord_lt lh (by decide))
theorem EncodeWidth.matchSlot50 (lh : BitVec 3) : EncodeWidth.Statement (.matchSlot50 lh) := EncodeWidth.of_some rfl (matchWord_lt lh (by decide))
theorem EncodeWidth.matchSlot51 (lh : BitVec 3) : EncodeWidth.Statement (.matchSlot51 lh) := EncodeWidth.of_some rfl (matchWord_lt lh (by decide))
theorem EncodeWidth.matchSlot52 (lh : BitVec 3) : EncodeWidth.Statement (.matchSlot52 lh) := EncodeWidth.of_some rfl (matchWord_lt lh (by decide))
theorem EncodeWidth.matchSlot53 (lh : BitVec 3) : EncodeWidth.Statement (.matchSlot53 lh) := EncodeWidth.of_some rfl (matchWord_lt lh (by decide))
theorem EncodeWidth.matchSlot54 (lh : BitVec 3) : EncodeWidth.Statement (.matchSlot54 lh) := EncodeWidth.of_some rfl (matchWord_lt lh (by decide))
theorem EncodeWidth.matchSlot55 (lh : BitVec 3) : EncodeWidth.Statement (.matchSlot55 lh) := EncodeWidth.of_some rfl (matchWord_lt lh (by decide))
theorem EncodeWidth.matchSlot56 (lh : BitVec 3) : EncodeWidth.Statement (.matchSlot56 lh) := EncodeWidth.of_some rfl (matchWord_lt lh (by decide))
theorem EncodeWidth.matchSlot57 (lh : BitVec 3) : EncodeWidth.Statement (.matchSlot57 lh) := EncodeWidth.of_some rfl (matchWord_lt lh (by decide))
theorem EncodeWidth.matchSlot58 (lh : BitVec 3) : EncodeWidth.Statement (.matchSlot58 lh) := EncodeWidth.of_some rfl (matchWord_lt lh (by decide))
theorem EncodeWidth.matchSlot59 (lh : BitVec 3) : EncodeWidth.Statement (.matchSlot59 lh) := EncodeWidth.of_some rfl (matchWord_lt lh (by decide))
theorem EncodeWidth.matchSlot60 (lh : BitVec 3) : EncodeWidth.Statement (.matchSlot60 lh) := EncodeWidth.of_some rfl (matchWord_lt lh (by decide))
theorem EncodeWidth.matchSlot61 (lh : BitVec 3) : EncodeWidth.Statement (.matchSlot61 lh) := EncodeWidth.of_some rfl (matchWord_lt lh (by decide))
theorem EncodeWidth.matchSlot62 (lh : BitVec 3) : EncodeWidth.Statement (.matchSlot62 lh) := EncodeWidth.of_some rfl (matchWord_lt lh (by decide))
theorem EncodeWidth.matchSlot63 (lh : BitVec 3) : EncodeWidth.Statement (.matchSlot63 lh) := EncodeWidth.of_some rfl (matchWord_lt lh (by decide))
theorem EncodeWidth.matchSlot64 (lh : BitVec 3) : EncodeWidth.Statement (.matchSlot64 lh) := EncodeWidth.of_some rfl (matchWord_lt lh (by decide))
theorem EncodeWidth.matchSlot65 (lh : BitVec 3) : EncodeWidth.Statement (.matchSlot65 lh) := EncodeWidth.of_some rfl (matchWord_lt lh (by decide))
theorem EncodeWidth.matchSlot66 (lh : BitVec 3) : EncodeWidth.Statement (.matchSlot66 lh) := EncodeWidth.of_some rfl (matchWord_lt lh (by decide))
theorem EncodeWidth.matchSlot67 (lh : BitVec 3) : EncodeWidth.Statement (.matchSlot67 lh) := EncodeWidth.of_some rfl (matchWord_lt lh (by decide))
theorem EncodeWidth.matchSlot68 (lh : BitVec 3) : EncodeWidth.Statement (.matchSlot68 lh) := EncodeWidth.of_some rfl (matchWord_lt lh (by decide))
theorem EncodeWidth.matchSlot69 (lh : BitVec 3) : EncodeWidth.Statement (.matchSlot69 lh) := EncodeWidth.of_some rfl (matchWord_lt lh (by decide))
theorem EncodeWidth.matchSlot70 (lh : BitVec 3) : EncodeWidth.Statement (.matchSlot70 lh) := EncodeWidth.of_some rfl (matchWord_lt lh (by decide))
theorem EncodeWidth.matchSlot71 (lh : BitVec 3) : EncodeWidth.Statement (.matchSlot71 lh) := EncodeWidth.of_some rfl (matchWord_lt lh (by decide))
theorem EncodeWidth.matchSlot72 (lh : BitVec 3) : EncodeWidth.Statement (.matchSlot72 lh) := EncodeWidth.of_some rfl (matchWord_lt lh (by decide))
theorem EncodeWidth.matchSlot73 (lh : BitVec 3) : EncodeWidth.Statement (.matchSlot73 lh) := EncodeWidth.of_some rfl (matchWord_lt lh (by decide))
theorem EncodeWidth.matchSlot74 (lh : BitVec 3) : EncodeWidth.Statement (.matchSlot74 lh) := EncodeWidth.of_some rfl (matchWord_lt lh (by decide))
theorem EncodeWidth.matchSlot75 (lh : BitVec 3) : EncodeWidth.Statement (.matchSlot75 lh) := EncodeWidth.of_some rfl (matchWord_lt lh (by decide))
theorem EncodeWidth.matchSlot76 (lh : BitVec 3) : EncodeWidth.Statement (.matchSlot76 lh) := EncodeWidth.of_some rfl (matchWord_lt lh (by decide))
theorem EncodeWidth.matchSlot77 (lh : BitVec 3) : EncodeWidth.Statement (.matchSlot77 lh) := EncodeWidth.of_some rfl (matchWord_lt lh (by decide))
theorem EncodeWidth.matchSlot78 (lh : BitVec 3) : EncodeWidth.Statement (.matchSlot78 lh) := EncodeWidth.of_some rfl (matchWord_lt lh (by decide))
theorem EncodeWidth.matchSlot79 (lh : BitVec 3) : EncodeWidth.Statement (.matchSlot79 lh) := EncodeWidth.of_some rfl (matchWord_lt lh (by decide))
theorem EncodeWidth.matchSlot80 (lh : BitVec 3) : EncodeWidth.Statement (.matchSlot80 lh) := EncodeWidth.of_some rfl (matchWord_lt lh (by decide))
theorem EncodeWidth.matchSlot81 (lh : BitVec 3) : EncodeWidth.Statement (.matchSlot81 lh) := EncodeWidth.of_some rfl (matchWord_lt lh (by decide))
theorem EncodeWidth.matchSlot82 (lh : BitVec 3) : EncodeWidth.Statement (.matchSlot82 lh) := EncodeWidth.of_some rfl (matchWord_lt lh (by decide))
theorem EncodeWidth.matchSlot83 (lh : BitVec 3) : EncodeWidth.Statement (.matchSlot83 lh) := EncodeWidth.of_some rfl (matchWord_lt lh (by decide))
theorem EncodeWidth.matchSlot84 (lh : BitVec 3) : EncodeWidth.Statement (.matchSlot84 lh) := EncodeWidth.of_some rfl (matchWord_lt lh (by decide))
theorem EncodeWidth.matchSlot85 (lh : BitVec 3) : EncodeWidth.Statement (.matchSlot85 lh) := EncodeWidth.of_some rfl (matchWord_lt lh (by decide))
theorem EncodeWidth.matchSlot86 (lh : BitVec 3) : EncodeWidth.Statement (.matchSlot86 lh) := EncodeWidth.of_some rfl (matchWord_lt lh (by decide))
theorem EncodeWidth.matchSlot87 (lh : BitVec 3) : EncodeWidth.Statement (.matchSlot87 lh) := EncodeWidth.of_some rfl (matchWord_lt lh (by decide))
theorem EncodeWidth.matchSlot88 (lh : BitVec 3) : EncodeWidth.Statement (.matchSlot88 lh) := EncodeWidth.of_some rfl (matchWord_lt lh (by decide))
theorem EncodeWidth.matchSlot89 (lh : BitVec 3) : EncodeWidth.Statement (.matchSlot89 lh) := EncodeWidth.of_some rfl (matchWord_lt lh (by decide))
theorem EncodeWidth.matchSlot90 (lh : BitVec 3) : EncodeWidth.Statement (.matchSlot90 lh) := EncodeWidth.of_some rfl (matchWord_lt lh (by decide))
theorem EncodeWidth.matchSlot91 (lh : BitVec 3) : EncodeWidth.Statement (.matchSlot91 lh) := EncodeWidth.of_some rfl (matchWord_lt lh (by decide))
theorem EncodeWidth.matchSlot92 (lh : BitVec 3) : EncodeWidth.Statement (.matchSlot92 lh) := EncodeWidth.of_some rfl (matchWord_lt lh (by decide))
theorem EncodeWidth.matchSlot93 (lh : BitVec 3) : EncodeWidth.Statement (.matchSlot93 lh) := EncodeWidth.of_some rfl (matchWord_lt lh (by decide))
theorem EncodeWidth.matchSlot94 (lh : BitVec 3) : EncodeWidth.Statement (.matchSlot94 lh) := EncodeWidth.of_some rfl (matchWord_lt lh (by decide))
theorem EncodeWidth.matchSlot95 (lh : BitVec 3) : EncodeWidth.Statement (.matchSlot95 lh) := EncodeWidth.of_some rfl (matchWord_lt lh (by decide))
theorem EncodeWidth.matchSlot96 (lh : BitVec 3) : EncodeWidth.Statement (.matchSlot96 lh) := EncodeWidth.of_some rfl (matchWord_lt lh (by decide))
theorem EncodeWidth.matchSlot97 (lh : BitVec 3) : EncodeWidth.Statement (.matchSlot97 lh) := EncodeWidth.of_some rfl (matchWord_lt lh (by decide))
theorem EncodeWidth.lenHdr0 : EncodeWidth.Statement .lenHdr0 := EncodeWidth.of_some rfl (by decide)
theorem EncodeWidth.lenHdr1 : EncodeWidth.Statement .lenHdr1 := EncodeWidth.of_some rfl (by decide)
theorem EncodeWidth.lenHdr2 : EncodeWidth.Statement .lenHdr2 := EncodeWidth.of_some rfl (by decide)
theorem EncodeWidth.lenHdr3 : EncodeWidth.Statement .lenHdr3 := EncodeWidth.of_some rfl (by decide)
theorem EncodeWidth.lenHdr4 : EncodeWidth.Statement .lenHdr4 := EncodeWidth.of_some rfl (by decide)
theorem EncodeWidth.lenHdr5 : EncodeWidth.Statement .lenHdr5 := EncodeWidth.of_some rfl (by decide)
theorem EncodeWidth.lenHdr6 : EncodeWidth.Statement .lenHdr6 := EncodeWidth.of_some rfl (by decide)
theorem EncodeWidth.lenHdr7 : EncodeWidth.Statement .lenHdr7 := EncodeWidth.of_some rfl (by decide)
theorem EncodeWidth.lengthSymbol (t : BitVec 8) : EncodeWidth.Statement (.lengthSymbol t) := EncodeWidth.of_some rfl t.isLt
theorem EncodeWidth.alignedSymbol (a : BitVec 3) : EncodeWidth.Statement (.alignedSymbol a) := EncodeWidth.of_some rfl a.isLt
theorem EncodeWidth.uncompressedRValues (r0 : BitVec 32) (r1 : BitVec 32) (r2 : BitVec 32) : EncodeWidth.Statement (.uncompressedRValues r0 r1 r2) := EncodeWidth.of_some rfl (rValuesWord_lt r0 r1 r2)
theorem EncodeWidth.rawBytes : EncodeWidth.Statement .rawBytes := EncodeWidth.of_some rfl (by decide)
theorem EncodeWidth.alignedLengths (l : BitVec 24) : EncodeWidth.Statement (.alignedLengths l) := EncodeWidth.of_some rfl l.isLt
theorem EncodeWidth.pretreeLengths (l : BitVec 80) : EncodeWidth.Statement (.pretreeLengths l) := EncodeWidth.of_some rfl l.isLt
theorem EncodeWidth.footerBitsField : EncodeWidth.Statement .footerBitsField := EncodeWidth.of_some rfl (by decide)
theorem EncodeWidth.alignPadding : EncodeWidth.Statement .alignPadding := EncodeWidth.of_some rfl (by decide)
theorem EncodeWidth.padByte : EncodeWidth.Statement .padByte := EncodeWidth.of_some rfl (by decide)
theorem EncodeWidth.chunkTail : EncodeWidth.Statement .chunkTail := EncodeWidth.of_some rfl (by decide)
theorem EncodeWidth.brLoad (data : List Byte) : EncodeWidth.Statement (.brLoad data) := EncodeWidth.of_none rfl
theorem EncodeWidth.fetchWord : EncodeWidth.Statement .fetchWord := EncodeWidth.of_none rfl
theorem EncodeWidth.readBits (n : Nat) : EncodeWidth.Statement (.readBits n) := EncodeWidth.of_none rfl
theorem EncodeWidth.peekBits (n : Nat) : EncodeWidth.Statement (.peekBits n) := EncodeWidth.of_none rfl
theorem EncodeWidth.readU32le : EncodeWidth.Statement .readU32le := EncodeWidth.of_none rfl
theorem EncodeWidth.readU24be : EncodeWidth.Statement .readU24be := EncodeWidth.of_none rfl
theorem EncodeWidth.readByte : EncodeWidth.Statement .readByte := EncodeWidth.of_none rfl
theorem EncodeWidth.align : EncodeWidth.Statement .align := EncodeWidth.of_none rfl
theorem EncodeWidth.readBytes (n : Nat) : EncodeWidth.Statement (.readBytes n) := EncodeWidth.of_none rfl
theorem EncodeWidth.readBytesInto (n : Nat) : EncodeWidth.Statement (.readBytesInto n) := EncodeWidth.of_none rfl
theorem EncodeWidth.inputRemaining : EncodeWidth.Statement .inputRemaining := EncodeWidth.of_none rfl
theorem EncodeWidth.buildTable (k : TableKind) : EncodeWidth.Statement (.buildTable k) := EncodeWidth.of_none rfl
theorem EncodeWidth.decodeSymbol (k : TableKind) : EncodeWidth.Statement (.decodeSymbol k) := EncodeWidth.of_none rfl
theorem EncodeWidth.readPretree : EncodeWidth.Statement .readPretree := EncodeWidth.of_none rfl
theorem EncodeWidth.updateRange (t : LenArray) (start : Nat) (stop : Nat) : EncodeWidth.Statement (.updateRange t start stop) := EncodeWidth.of_none rfl
theorem EncodeWidth.readTables : EncodeWidth.Statement .readTables := EncodeWidth.of_none rfl
theorem EncodeWidth.readAlignedTree : EncodeWidth.Statement .readAlignedTree := EncodeWidth.of_none rfl
theorem EncodeWidth.readBlock : EncodeWidth.Statement .readBlock := EncodeWidth.of_none rfl
theorem EncodeWidth.readUncompressedBody : EncodeWidth.Statement .readUncompressedBody := EncodeWidth.of_none rfl
theorem EncodeWidth.decodeElement : EncodeWidth.Statement .decodeElement := EncodeWidth.of_none rfl
theorem EncodeWidth.decodeUncompressed : EncodeWidth.Statement .decodeUncompressed := EncodeWidth.of_none rfl
theorem EncodeWidth.decodeCoded : EncodeWidth.Statement .decodeCoded := EncodeWidth.of_none rfl
theorem EncodeWidth.matchLength (lh : BitVec 3) : EncodeWidth.Statement (.matchLength lh) := EncodeWidth.of_none rfl
theorem EncodeWidth.matchOffsetSlot0 : EncodeWidth.Statement .matchOffsetSlot0 := EncodeWidth.of_none rfl
theorem EncodeWidth.matchOffsetSlot1 : EncodeWidth.Statement .matchOffsetSlot1 := EncodeWidth.of_none rfl
theorem EncodeWidth.matchOffsetSlot2 : EncodeWidth.Statement .matchOffsetSlot2 := EncodeWidth.of_none rfl
theorem EncodeWidth.matchOffsetVerbatim (slot : Nat) : EncodeWidth.Statement (.matchOffsetVerbatim slot) := EncodeWidth.of_none rfl
theorem EncodeWidth.matchOffsetAligned (slot : Nat) : EncodeWidth.Statement (.matchOffsetAligned slot) := EncodeWidth.of_none rfl
theorem EncodeWidth.matchOffsetAlignedShort (slot : Nat) : EncodeWidth.Statement (.matchOffsetAlignedShort slot) := EncodeWidth.of_none rfl
theorem EncodeWidth.pushOffset (offset : BitVec 32) : EncodeWidth.Statement (.pushOffset offset) := EncodeWidth.of_none rfl
theorem EncodeWidth.push (byte : BitVec 8) : EncodeWidth.Statement (.push byte) := EncodeWidth.of_none rfl
theorem EncodeWidth.copyFromSelf (offset : Nat) (length : Nat) : EncodeWidth.Statement (.copyFromSelf offset length) := EncodeWidth.of_none rfl
theorem EncodeWidth.copyFromBitstream (n : Nat) : EncodeWidth.Statement (.copyFromBitstream n) := EncodeWidth.of_none rfl
theorem EncodeWidth.pastView (n : Nat) : EncodeWidth.Statement (.pastView n) := EncodeWidth.of_none rfl
theorem EncodeWidth.construct (windowSize : Nat) : EncodeWidth.Statement (.construct windowSize) := EncodeWidth.of_none rfl
theorem EncodeWidth.reset : EncodeWidth.Statement .reset := EncodeWidth.of_none rfl
theorem EncodeWidth.decompressChunkInto (data : List Byte) (outputSize : Nat) : EncodeWidth.Statement (.decompressChunkInto data outputSize) := EncodeWidth.of_none rfl
theorem EncodeWidth.decompressChunk (data : List Byte) (outputSize : Option Nat) : EncodeWidth.Statement (.decompressChunk data outputSize) := EncodeWidth.of_none rfl

end Sys2Proof.Laws
end

