-- ==== Sys2Proof/Tests/Slice0.lean ====
section
/-! SUPPORT. Slice0.lean: tests of the model on the spec's own vectors (95_test_vectors.md, 30_encoding.md), each one step on a small
state, and, for every statement with hypotheses, a concrete case that meets them. -/

open Sys2Proof Sys2Proof.Machine

namespace Sys2Proof.Tests

set_option Elab.async false

/-! ### Helpers -/

/-- The instruction completes and its next state meets a check. -/
def shows (i : Instr) (s : State) (p : State → Bool) : Bool :=
  match exec i s with
  | .next t => t.freeCtr == s.freeCtr && p t
  | _ => false

/-- The instruction takes a fault with this code and info. -/
def faultsWith (i : Instr) (s : State) (code info : BitVec 4) : Bool :=
  match exec i s with
  | .next t => t.freeCtr == s.freeCtr + 1 && t.fault == ⟨true, code, info⟩ && t.result == .fault code info && t.phase == .idle
  | _ => false

/-- The instruction is refused as outside its domain. -/
def outside (i : Instr) (s : State) : Bool :=
  match exec i s with
  | .refused r => r == .outsideDomain
  | _ => false

/-- The state after an instruction. -/
def after (i : Instr) (s : State) : State :=
  match exec i s with
  | .next t => t
  | _ => s

theorem completes_after {i : Instr} {s : State} (h : shows i s (fun _ => true) = true) : Completes i s (after i s) := by
  unfold shows at h
  unfold Completes after
  split at h
  · next t ht => rw [ht]; simpa using h
  · cases h

def decodesTo (f : Format) (w : Nat) (i : Instr) : Bool :=
  match decode f w with
  | .ok j => j == i
  | .error _ => false

theorem decode_of {f : Format} {w : Nat} {i : Instr} (h : decodesTo f w i = true) : decode f w = .ok i := by
  unfold decodesTo at h
  split at h
  · next j hj => rw [hj, eq_of_beq h]
  · cases h

/-- Just after `construct(2^17)`. -/
def s0 : State := State.resetOf (2 ^ 17)

/-- A fresh reader on some bytes. -/
def onBytes (bs : List Byte) : State := s0.setBr (Reader.load bs)

/-- A reader in the middle of some bytes. -/
def midway (bs : List Byte) (bytePos : Nat) (word : Word16) (bitsLeft : Nat) : State := s0.setBr ⟨bs, bs.length, bytePos, word, bitsLeft⟩

def cursorIs (s : State) (bytePos : Nat) (word : Word16) (bitsLeft : Nat) : Bool :=
  s.br.bytePos == bytePos && s.br.currentWord == word && s.br.bitsLeft == bitsLeft

def gives (s : State) (v : Nat) : Bool := s.ret == .num v

def tableOf (k : TableKind) (lens : List Nat) : Table :=
  match (⟨lens, 0, [], false⟩ : Table).build k with
  | .ok t => t
  | .error _ => ⟨lens, 0, [], false⟩

/-- A block in progress, with the offset cache of section 5 of the vectors. -/
def inBlock (kind : BlockKind) (remaining : Nat) (bs : List Byte) : State :=
  { (State.resetOf (2 ^ 25)).setBr (Reader.load bs) with rep := ⟨10, 20, 30⟩, blk := ⟨kind, remaining, remaining, 7, 8, 9⟩ }

/-! ### WellFormed refuses what it checks -/

theorem test_wf_readBits : (Instr.readBits 33).wellFormed = false := by decide
theorem test_wf_peekBits : (Instr.peekBits 33).wellFormed = false := by decide
theorem test_wf_lengthSymbol : (Instr.lengthSymbol 249).wellFormed = false := by decide
theorem test_wf_updateRange_order : (Instr.updateRange .mainLen 5 4).wellFormed = false := by decide
theorem test_wf_updateRange_main : (Instr.updateRange .mainLen 0 1041).wellFormed = false := by decide
theorem test_wf_updateRange_len : (Instr.updateRange .lenLen 0 250).wellFormed = false := by decide
theorem test_wf_verbatim_low : (Instr.matchOffsetVerbatim 2).wellFormed = false := by decide
theorem test_wf_verbatim_high : (Instr.matchOffsetVerbatim 98).wellFormed = false := by decide
theorem test_wf_aligned_low : (Instr.matchOffsetAligned 7).wellFormed = false := by decide
theorem test_wf_aligned_high : (Instr.matchOffsetAligned 98).wellFormed = false := by decide
theorem test_wf_alignedShort_low : (Instr.matchOffsetAlignedShort 2).wellFormed = false := by decide
theorem test_wf_alignedShort_high : (Instr.matchOffsetAlignedShort 8).wellFormed = false := by decide
theorem test_wf_pastView : (Instr.pastView 32769).wellFormed = false := by decide

/-! ### Decoding, every constructor that has a pattern, words from R92 to R106 -/

theorem test_decode_e8 : decodesTo .chunkPrefix 0b0 .e8Clear && decodesTo .chunkPrefix 0b1 .e8Set = true := by decide

/-- `tag` 3 bits, then `size` 24 bits (R93, R94). -/
theorem test_decode_header : [
    (0b000000000000000000000000101, Instr.blockInvalid0 5), (0b001000000000000000000001000, Instr.blockVerbatim 8),
    (0b010000000000000000000010011, Instr.blockAligned 19), (0b011000000000000000000000011, Instr.blockUncompressed 3),
    (0b100100000000000000000000000, Instr.blockInvalid4 0x800000), (0b101000000000000000000000000, Instr.blockInvalid5 0),
    (0b110000000000000000000000000, Instr.blockInvalid6 0), (0b111111111111111111111111111, Instr.blockInvalid7 0xFFFFFF)].all
      (fun p => decodesTo .blockHeader p.1 p.2) = true := by decide

def pretreeWords : List (Nat × Instr) :=
  [(0b00000, Instr.ptDelta0), (0b00001, Instr.ptDelta1), (0b00010, Instr.ptDelta2), (0b00011, Instr.ptDelta3), (0b00100, Instr.ptDelta4)] ++
  [(0b00101, Instr.ptDelta5), (0b00110, Instr.ptDelta6), (0b00111, Instr.ptDelta7), (0b01000, Instr.ptDelta8), (0b01001, Instr.ptDelta9)] ++
  [(0b01010, Instr.ptDelta10), (0b01011, Instr.ptDelta11), (0b01100, Instr.ptDelta12), (0b01101, Instr.ptDelta13), (0b01110, Instr.ptDelta14)] ++
  [(0b01111, Instr.ptDelta15), (0b10000, Instr.ptDelta16), (0b10001, Instr.ptZeroRunShort), (0b10010, Instr.ptZeroRunLong), (0b10011, Instr.ptSameRun)]

/-- Pretree symbols 0 to 19 (R100). -/
theorem test_decode_pretree : pretreeWords.all (fun p => decodesTo .pretreeSymbol p.1 p.2) = true := by decide

def matchWords : List (Nat × Instr) :=
  [(0b00100000011, Instr.matchSlot0 3), (0b00100001000, Instr.matchSlot1 0), (0b00100010101, Instr.matchSlot2 5), (0b00100011010, Instr.matchSlot3 2)] ++
  [(0b00100100111, Instr.matchSlot4 7), (0b00100101100, Instr.matchSlot5 4), (0b00100110001, Instr.matchSlot6 1), (0b00100111110, Instr.matchSlot7 6)] ++
  [(0b00101000011, Instr.matchSlot8 3), (0b00101001000, Instr.matchSlot9 0), (0b00101010101, Instr.matchSlot10 5), (0b00101011010, Instr.matchSlot11 2)] ++
  [(0b00101100111, Instr.matchSlot12 7), (0b00101101100, Instr.matchSlot13 4), (0b00101110001, Instr.matchSlot14 1), (0b00101111110, Instr.matchSlot15 6)] ++
  [(0b00110000011, Instr.matchSlot16 3), (0b00110001000, Instr.matchSlot17 0), (0b00110010101, Instr.matchSlot18 5), (0b00110011010, Instr.matchSlot19 2)] ++
  [(0b00110100111, Instr.matchSlot20 7), (0b00110101100, Instr.matchSlot21 4), (0b00110110001, Instr.matchSlot22 1), (0b00110111110, Instr.matchSlot23 6)] ++
  [(0b00111000011, Instr.matchSlot24 3), (0b00111001000, Instr.matchSlot25 0), (0b00111010101, Instr.matchSlot26 5), (0b00111011010, Instr.matchSlot27 2)] ++
  [(0b00111100111, Instr.matchSlot28 7), (0b00111101100, Instr.matchSlot29 4), (0b00111110001, Instr.matchSlot30 1), (0b00111111110, Instr.matchSlot31 6)] ++
  [(0b01000000011, Instr.matchSlot32 3), (0b01000001000, Instr.matchSlot33 0), (0b01000010101, Instr.matchSlot34 5), (0b01000011010, Instr.matchSlot35 2)] ++
  [(0b01000100111, Instr.matchSlot36 7), (0b01000101100, Instr.matchSlot37 4), (0b01000110001, Instr.matchSlot38 1), (0b01000111110, Instr.matchSlot39 6)] ++
  [(0b01001000011, Instr.matchSlot40 3), (0b01001001000, Instr.matchSlot41 0), (0b01001010101, Instr.matchSlot42 5), (0b01001011010, Instr.matchSlot43 2)] ++
  [(0b01001100111, Instr.matchSlot44 7), (0b01001101100, Instr.matchSlot45 4), (0b01001110001, Instr.matchSlot46 1), (0b01001111110, Instr.matchSlot47 6)] ++
  [(0b01010000011, Instr.matchSlot48 3), (0b01010001000, Instr.matchSlot49 0), (0b01010010101, Instr.matchSlot50 5), (0b01010011010, Instr.matchSlot51 2)] ++
  [(0b01010100111, Instr.matchSlot52 7), (0b01010101100, Instr.matchSlot53 4), (0b01010110001, Instr.matchSlot54 1), (0b01010111110, Instr.matchSlot55 6)] ++
  [(0b01011000011, Instr.matchSlot56 3), (0b01011001000, Instr.matchSlot57 0), (0b01011010101, Instr.matchSlot58 5), (0b01011011010, Instr.matchSlot59 2)] ++
  [(0b01011100111, Instr.matchSlot60 7), (0b01011101100, Instr.matchSlot61 4), (0b01011110001, Instr.matchSlot62 1), (0b01011111110, Instr.matchSlot63 6)] ++
  [(0b01100000011, Instr.matchSlot64 3), (0b01100001000, Instr.matchSlot65 0), (0b01100010101, Instr.matchSlot66 5), (0b01100011010, Instr.matchSlot67 2)] ++
  [(0b01100100111, Instr.matchSlot68 7), (0b01100101100, Instr.matchSlot69 4), (0b01100110001, Instr.matchSlot70 1), (0b01100111110, Instr.matchSlot71 6)] ++
  [(0b01101000011, Instr.matchSlot72 3), (0b01101001000, Instr.matchSlot73 0), (0b01101010101, Instr.matchSlot74 5), (0b01101011010, Instr.matchSlot75 2)] ++
  [(0b01101100111, Instr.matchSlot76 7), (0b01101101100, Instr.matchSlot77 4), (0b01101110001, Instr.matchSlot78 1), (0b01101111110, Instr.matchSlot79 6)] ++
  [(0b01110000011, Instr.matchSlot80 3), (0b01110001000, Instr.matchSlot81 0), (0b01110010101, Instr.matchSlot82 5), (0b01110011010, Instr.matchSlot83 2)] ++
  [(0b01110100111, Instr.matchSlot84 7), (0b01110101100, Instr.matchSlot85 4), (0b01110110001, Instr.matchSlot86 1), (0b01110111110, Instr.matchSlot87 6)] ++
  [(0b01111000011, Instr.matchSlot88 3), (0b01111001000, Instr.matchSlot89 0), (0b01111010101, Instr.matchSlot90 5), (0b01111011010, Instr.matchSlot91 2)] ++
  [(0b01111100111, Instr.matchSlot92 7), (0b01111101100, Instr.matchSlot93 4), (0b01111110001, Instr.matchSlot94 1), (0b01111111110, Instr.matchSlot95 6)] ++
  [(0b10000000011, Instr.matchSlot96 3), (0b10000001000, Instr.matchSlot97 0)]

/-- The main symbols of R102, one of each slot's eight in the table of R108. -/
theorem test_decode_match : matchWords.all (fun p => decodesTo .mainSymbol p.1 p.2) = true := by decide +kernel

theorem test_decode_literal : decodesTo .mainSymbol 0b00001100001 (.literal 0x61) && decodesTo .mainSymbol 0b00011111111 (.literal 0xFF) &&
    decodesTo .mainSymbol 0b00000000000 (.literal 0) = true := by decide

theorem test_decode_lengthHeader : [
    (0b000, Instr.lenHdr0), (0b001, Instr.lenHdr1), (0b010, Instr.lenHdr2), (0b011, Instr.lenHdr3), (0b100, Instr.lenHdr4),
    (0b101, Instr.lenHdr5), (0b110, Instr.lenHdr6), (0b111, Instr.lenHdr7)].all (fun p => decodesTo .lengthHeader p.1 p.2) = true := by
  decide

/-- Length symbols, aligned symbols (R103, R106), and the position-selected items (R91, R95, R105, R117). -/
theorem test_decode_items :
    decodesTo .lengthSymbol 0b11111000 (.lengthSymbol 248) && decodesTo .alignedSymbol 0b101 (.alignedSymbol 5) &&
    decodesTo .rawBytes 0 .rawBytes && decodesTo .footerBits 0 .footerBitsField && decodesTo .alignPadding 0 .alignPadding &&
    decodesTo .padByte 0 .padByte && decodesTo .chunkTail 0 .chunkTail = true := by decide

/-- `r0` in bits 95..64, `r1` in 63..32, `r2` in 31..0 (R203). -/
theorem test_decode_rValues : decodesTo .rValues 0x000000010000000200000003 (.uncompressedRValues 1 2 3) = true := by decide

/-- The lengths of P3 (`2 2 2 2 0 0 0 0`) and of P2's first pretree (15: 2, 17: 2, 18: 1), written out field by field (R98, R99). -/
theorem test_decode_lengths :
    decodesTo .alignedLengths 0b010010010010000000000000 (.alignedLengths 0x492000) &&
    decodesTo .pretreeLengths 0x00000000000000020210 (.pretreeLengths 0x20210) = true := by decide

/-- A pretree symbol above 19, a main symbol above 1039, a length symbol above 248 and a pattern too wide decode to nothing (R111). -/
theorem test_decode_refuses :
    [decode .pretreeSymbol 20, decode .mainSymbol 1040, decode .lengthSymbol 249, decode .chunkPrefix 2].all
      (fun r => match r with | .ok _ => false | .error _ => true) = true := by decide

/-- The header of V5.10 as the stream carries it: bytes `00 20 00 01`, tag 1, size 8. -/
theorem test_header_bytes : bytesOfBits (fieldBits 27 (headerWord 1 8) ++ [false, false, false, false, false]) = [0x00, 0x20, 0x00, 0x01] := by
  decide

/-! ### Constant tables, as R107, R108 and R109 write them out -/

theorem test_footerBits : (List.range 38).map footerBits =
    [0, 0, 0, 0, 1, 1, 2, 2, 3, 3, 4, 4, 5, 5, 6, 6, 7, 7, 8] ++ [8, 9, 9, 10, 10, 11, 11, 12, 12, 13, 13, 14, 14, 15, 15, 16, 16, 17, 17] := by
  decide

theorem test_footerBits_end : footerBits 38 = 17 ∧ footerBits 97 = 17 ∧ footerBits 288 = 17 := by decide

theorem test_basePosition : (List.range 39).map basePosition =
    [0, 1, 2, 3, 4, 6, 8, 12, 16, 24, 32, 48, 64, 96, 128, 192, 256, 384, 512, 768] ++
    [1024, 1536, 2048, 3072, 4096, 6144, 8192, 12288, 16384, 24576, 32768, 49152, 65536, 98304, 131072, 196608, 262144, 393216, 524288] := by
  decide

theorem test_basePosition_end : basePosition 97 = 8257536 ∧ basePosition 98 = 8388608 ∧ basePosition 289 = 33423360 := by decide +kernel

theorem test_positionSlots : positionSlots? 0x8000 = none ∧ positionSlots? (2 ^ 17) = some 30 ∧ positionSlots? (2 ^ 25) = some 98 := by decide

/-! ### BitReader (S1 to S3, section 2 of the vectors) -/

def abc : List Byte := [0xAB, 0xCD, 0x12, 0x34, 0xEF, 0x01]

/-- V2.1. -/
theorem test_readBits_32 : shows (.readBits 32) (onBytes abc) (fun t => gives t 0xCDAB3412 && cursorIs t 4 0x3412 0) = true := by decide +kernel

/-- V2.2, its second read: 32 bits over three words. -/
theorem test_readBits_across : shows (.readBits 32) (midway abc 2 0xCDAB 11) (fun t => gives t 0xB5668240 && cursorIs t 6 0x01EF 11) = true := by
  decide +kernel

/-- V2.4. -/
theorem test_peekBits_32 : shows (.peekBits 32) (midway abc 2 0xCDAB 4) (fun t => gives t 0xB341201E && cursorIs t 2 0xCDAB 4) = true := by
  decide +kernel

/-- V2.5: 12 missing bits read 0 in a peek of 16, and a peek of 17 faults. -/
theorem test_peekBits_end : shows (.peekBits 16) (midway [0xAB, 0xCD] 2 0xCDAB 4) (fun t => gives t 0xB000) &&
    faultsWith (.peekBits 17) (midway [0xAB, 0xCD] 2 0xCDAB 4) 1 2 && faultsWith (.readBits 5) (midway [0xAB, 0xCD] 2 0xCDAB 4) 1 1 = true := by
  decide +kernel

/-- V2.6: one byte present, one missing. -/
theorem test_peekBits_half : shows (.peekBits 16) (midway [0xAB, 0xCD, 0x12] 2 0xCDAB 0) (fun t => gives t 0x0012) &&
    faultsWith (.readBits 1) (midway [0xAB, 0xCD, 0x12] 2 0xCDAB 0) 1 1 = true := by decide +kernel

/-- S2, and V2.14 off a word boundary. -/
theorem test_readU32le : shows .readU32le (onBytes [0x56, 0x78, 0x12, 0x34]) (fun t => gives t 873625686 && cursorIs t 4 0x3412 0) &&
    shows .readU32le (midway abc 2 0xCDAB 8) (fun t => gives t 0x1201AB34 && cursorIs t 6 0x01EF 8) = true := by decide +kernel

/-- S3. -/
theorem test_readU24be : shows .readU24be (midway [0x18, 0x0C, 0x30, 0x18] 2 0x0C18 12)
    (fun t => gives t 0b110000011000000110000011 && cursorIs t 4 0x1830 4) = true := by decide +kernel

/-- V2.10: the byte read ignores the 12 pending bits; then a word from the odd address 3. -/
theorem test_readByte : shows .readByte (midway abc 2 0xCDAB 12) (fun t => gives t 0x12 && cursorIs t 3 0xCDAB 12) = true := by decide +kernel

theorem test_fetchWord_odd : shows .fetchWord (midway abc 3 0xCDAB 0) (fun t => cursorIs t 5 0xEF34 16) &&
    faultsWith .fetchWord (midway abc 5 0xCDAB 0) 1 1 = true := by decide +kernel

/-- V2.8: bits dropped, then a word skipped unread; V2.12: past the end of the input. -/
theorem test_align : shows .align (midway abc 2 0xCDAB 13) (fun t => cursorIs t 2 0xCDAB 0) &&
    shows .align (midway abc 2 0xCDAB 0) (fun t => cursorIs t 4 0xCDAB 0) &&
    shows .align (midway [0xAB, 0xCD] 2 0 0) (fun t => cursorIs t 4 0 0) = true := by decide +kernel

/-- V2.11. -/
theorem test_readBytes : shows (.readBytes 3) (onBytes abc) (fun t => t.ret == .bytes [0xAB, 0xCD, 0x12] && cursorIs t 3 0 0) &&
    faultsWith (.readBytes 2) (midway abc 5 0xEF34 0) 1 4 = true := by decide +kernel

theorem test_readByte_end : faultsWith .readByte (midway abc 6 0 0) 1 3 = true := by decide +kernel

/-- V2.12, V2.16. -/
theorem test_inputRemaining : shows .inputRemaining (midway [0xAB, 0xCD] 4 0 0) (fun t => gives t 0) &&
    shows .inputRemaining (midway abc 2 0xCDAB 3) (fun t => gives t 4) = true := by decide +kernel

theorem test_brLoad : shows (.brLoad abc) (midway [0x01] 1 0xFFFF 3) (fun t => cursorIs t 0 0 0 && t.br.len == 6) = true := by decide +kernel

theorem test_readBits_domain : outside (.readBits 33) s0 && outside (.peekBits 33) s0 = true := by decide +kernel

/-! ### HuffmanTable (section 3) -/

def withLens (k : TableKind) (lens : List Nat) : State := s0.setTable k ⟨lens, 9, [7], false⟩

def builds (k : TableKind) (lens : List Nat) (m : Nat) (tab : List Nat) : Bool :=
  shows (.buildTable k) (withLens k lens) (fun t => t.table k == ⟨lens, m, tab, true⟩)

/-- V3.1, V3.2, V3.3, V3.8, V3.9, V3.10. -/
theorem test_buildTable : builds .main [1, 2, 3, 3] 3 [0, 0, 0, 0, 1, 1, 2, 3] && builds .len [2, 2, 2, 2] 2 [0, 1, 2, 3] &&
    builds .pre [1, 1] 1 [0, 1] && builds .align [3, 3, 3, 3, 3, 3, 3, 3] 3 [0, 1, 2, 3, 4, 5, 6, 7] &&
    builds .main [0, 2, 0, 1, 2] 2 [3, 3, 1, 4] && builds .main [2, 1, 3, 3] 3 [1, 1, 1, 1, 0, 0, 2, 3] = true := by decide +kernel

/-- V3.4 to V3.7, V3.11, V3.12. -/
theorem test_buildTable_faults :
    faultsWith (.buildTable .main) (withLens .main [1]) 4 1 && faultsWith (.buildTable .main) (withLens .main [1, 2]) 4 1 &&
    faultsWith (.buildTable .main) (withLens .main [1, 1, 1]) 4 2 && faultsWith (.buildTable .main) (withLens .main [1, 2, 2, 2]) 4 2 &&
    faultsWith (.buildTable .len) (withLens .len [16, 0, 0, 0]) 4 1 && faultsWith (.buildTable .main) (withLens .main [0, 0, 0]) 4 3 &&
    faultsWith (.buildTable .align) (withLens .align [0, 0, 0]) 4 3 && faultsWith (.buildTable .pre) (withLens .pre [0, 0, 0]) 4 3 &&
    shows (.buildTable .len) (withLens .len [0, 0, 0]) (fun t => t.len == ⟨[0, 0, 0], 0, [], false⟩) = true := by decide +kernel

/-- V3.14 and V3.15: the peek may run past the end, the consuming read may not; V3.17. -/
theorem test_decodeSymbol :
    shows (.decodeSymbol .main) ((midway [0x02, 0x00] 2 0x0002 2).setTable .main (tableOf .main [1, 2, 3, 3]))
      (fun t => gives t 1 && cursorIs t 2 0x0002 0) &&
    faultsWith (.decodeSymbol .main) ((midway [0x03, 0x00] 2 0x0003 2).setTable .main (tableOf .main [1, 2, 3, 3])) 1 1 &&
    faultsWith (.decodeSymbol .len) (onBytes [0x03, 0x00]) 4 7 = true := by decide +kernel

/-- V3.16. -/
theorem test_decodeSymbol_aligned :
    shows (.decodeSymbol .align) ((onBytes [0x00, 0xA0]).setTable .align (tableOf .align [3, 3, 3, 3, 3, 3, 3, 3]))
      (fun t => gives t 5 && cursorIs t 2 0xA000 13) = true := by decide +kernel

/-! ### Pretree (section 4) -/

/-- An update of the length lengths in progress, on twelve lengths. -/
def updating (pos stop : Nat) (lens : List Nat) (s : State) : State := (s.setUpd ⟨.lenLen, pos, stop⟩).setTable .len ⟨lens, 0, [], false⟩

def deltaTo (i : Instr) (old new : Nat) : Bool :=
  shows i (updating 1 3 [4, old, 6] s0) (fun t => t.len.lens == [4, new, 6] && t.upd == ⟨.lenLen, 2, 3⟩)

/-- The delta arithmetic of R182, one old length a symbol, by hand from `(17 + old - symbol) mod 17`. -/
theorem test_ptDelta :
    [(Instr.ptDelta0, 16, 16), (Instr.ptDelta1, 0, 16), (Instr.ptDelta2, 1, 16), (Instr.ptDelta3, 5, 2), (Instr.ptDelta4, 0, 13),
      (Instr.ptDelta5, 5, 0), (Instr.ptDelta6, 5, 16), (Instr.ptDelta7, 16, 9), (Instr.ptDelta8, 8, 0)].all
      (fun p => deltaTo p.1 p.2.1 p.2.2) &&
    [(Instr.ptDelta9, 0, 8), (Instr.ptDelta10, 3, 10), (Instr.ptDelta11, 2, 8), (Instr.ptDelta12, 16, 4), (Instr.ptDelta13, 0, 4),
      (Instr.ptDelta14, 0, 3), (Instr.ptDelta15, 0, 2), (Instr.ptDelta16, 3, 4)].all (fun p => deltaTo p.1 p.2.1 p.2.2) = true := by
  decide +kernel

/-- V4.1's third symbol: `z = 0`, four zeros; and a run of 19 (z = 15) past an end of 12 faults. -/
theorem test_ptZeroRunShort :
    shows .ptZeroRunShort (updating 2 12 [4, 1, 7, 7, 7, 7, 2, 9, 9, 9, 9, 3] (onBytes [0x00, 0x00]))
      (fun t => t.len.lens == [4, 1, 0, 0, 0, 0, 2, 9, 9, 9, 9, 3] && t.upd.pos == 6 && t.br.bitsLeft == 12) &&
    faultsWith .ptZeroRunShort (updating 2 12 [4, 1, 7, 7, 7, 7, 2, 9, 9, 9, 9, 3] (onBytes [0x00, 0xF0])) 4 6 = true := by decide +kernel

/-- V4.6: a run of 51. -/
theorem test_ptZeroRunLong : shows .ptZeroRunLong (updating 0 52 (List.replicate 52 3) (onBytes [0x00, 0xF8]))
    (fun t => t.len.lens == List.replicate 51 0 ++ [3] && t.upd.pos == 51 && t.br.bitsLeft == 11) = true := by decide +kernel

/-- The pretree of section 4: codes 1 `00`, 16 `01`, 17 `10`, 19 `11`. -/
def pretree4 : Table := tableOf .pre [0, 2, 0, 0, 0, 0, 0, 0, 0, 0, 0, 0, 0, 0, 0, 0, 2, 2, 0, 2]

/-- V4.1's fourth symbol: `same = 1`, `newCode = 1`: five ones from the old length 2 at position 6. -/
theorem test_ptSameRun :
    shows .ptSameRun ((updating 6 12 [4, 1, 0, 0, 0, 0, 2, 9, 9, 9, 9, 3] (onBytes [0x00, 0x80])).setTable .pre pretree4)
      (fun t => t.len.lens == [4, 1, 0, 0, 0, 0, 1, 1, 1, 1, 1, 3] && t.upd.pos == 11 && t.br.bitsLeft == 13) = true := by decide +kernel

/-- V4.3 and V4.4: `newCode` 17 faults `NewCode`; a run of 4 past an end of 3 faults `RunOverflow`. -/
theorem test_ptSameRun_faults :
    faultsWith .ptSameRun ((updating 0 8 (List.replicate 8 0) (onBytes [0x00, 0x40])).setTable .pre pretree4) 4 5 &&
    faultsWith .ptSameRun ((updating 0 3 (List.replicate 8 0) (onBytes [0x00, 0x00])).setTable .pre pretree4) 4 6 = true := by decide +kernel

def update41 : List Byte := [0x00, 0x02, 0x00, 0x00, 0x00, 0x00, 0x00, 0x00, 0x02, 0x22, 0x38, 0x18, 0x00, 0x80]

/-- V4.1 and V4.2. -/
theorem test_updateRange :
    shows (.updateRange .lenLen 0 12) (updating 0 0 [5, 0, 7, 7, 7, 7, 2, 9, 9, 9, 9, 3] (onBytes update41))
      (fun t => t.len.lens == [4, 1, 0, 0, 0, 0, 1, 1, 1, 1, 1, 4] && cursorIs t 14 0x8000 15) &&
    faultsWith (.updateRange .lenLen 0 5) (updating 0 0 [5, 0, 7, 7, 7, 7, 2, 9, 9, 9, 9, 3] (onBytes update41)) 4 6 = true := by decide +kernel

/-- V4.9: an empty range reads its pretree and decodes no symbol. -/
theorem test_updateRange_empty :
    shows (.updateRange .lenLen 1 1) (updating 0 0 [1, 2] (onBytes update41)) (fun t => t.len.lens == [1, 2] && cursorIs t 10 0x2202 0) = true := by
  decide +kernel

/-- V4.7 and V4.8. -/
theorem test_readPretree_faults : faultsWith .readPretree (onBytes (List.replicate 10 0)) 4 3 &&
    faultsWith .readPretree (onBytes [0x00, 0x10, 0x00, 0x00, 0x00, 0x00, 0x00, 0x00, 0x00, 0x00]) 4 1 = true := by decide +kernel

theorem test_readPretree : shows .readPretree (onBytes update41)
    (fun t => t.pre.tab == [1, 16, 17, 19] && t.pre.present && cursorIs t 10 0x2202 0) = true := by decide +kernel

/-- The same pretree from the row's field (R99). -/
theorem test_pretreeLengths : shows (.pretreeLengths 0x02000000000000002202) s0
    (fun t => t.pre.tab == [1, 16, 17, 19] && lenAt t.pre.lens 17 == 2) = true := by decide +kernel

/-- P3's aligned lengths (R98), from the field and from the stream. -/
theorem test_alignedLengths : shows (.alignedLengths 0x492000) s0 (fun t => t.align == ⟨[2, 2, 2, 2, 0, 0, 0, 0], 2, [0, 1, 2, 3], true⟩) &&
    shows .readAlignedTree (onBytes [0x20, 0x49, 0x00, 0x00]) (fun t => t.align.tab == [0, 1, 2, 3] && cursorIs t 4 0 8) = true := by
  decide +kernel

/-! ### Blocks (section 5) -/

/-- V5.10 to V5.13. -/
theorem test_block_headers : shows (.blockVerbatim 8) s0 (fun t => t.hdr == ⟨.verbatim, 8⟩ && t.blk == s0.blk) &&
    shows (.blockAligned 19) s0 (fun t => t.hdr == ⟨.aligned, 19⟩) && shows (.blockUncompressed 3) s0 (fun t => t.hdr == ⟨.uncompressed, 3⟩) &&
    faultsWith (.blockInvalid0 0) s0 2 0 && faultsWith (.blockInvalid4 0) s0 2 4 && faultsWith (.blockInvalid5 0) s0 2 5 &&
    faultsWith (.blockInvalid6 0) s0 2 6 && faultsWith (.blockInvalid7 0) s0 2 7 = true := by decide +kernel

/-- V5.13 in the stream: the fault comes after both header fields, and with too few bits for the size it is the read that faults (V7.3). -/
theorem test_readBlock_faults : faultsWith .readBlock (onBytes [0x00, 0x80, 0x00, 0x00]) 2 4 &&
    faultsWith .readBlock (onBytes [0x00, 0xE0, 0x00, 0x00]) 2 7 && faultsWith .readBlock (onBytes [0x00, 0xE0]) 1 1 = true := by decide +kernel

/-- V5.12 with P4's second body: the three values little-endian after the alignment. -/
def block512 : List Byte := [0x00, 0x60, 0x60, 0x00, 0x03, 0x00, 0x00, 0x00, 0x02, 0x00, 0x00, 0x00, 0x01, 0x00, 0x00, 0x00]

theorem test_readBlock : shows .readBlock (onBytes block512)
    (fun t => t.blk == ⟨.uncompressed, 3, 3, 3, 2, 1⟩ && t.rep == ⟨1, 1, 1⟩ && cursorIs t 16 0 0) = true := by decide +kernel

theorem test_readUncompressedBody : shows .readUncompressedBody (midway block512 4 0x0060 5)
    (fun t => t.blk == ⟨.none, 0, 0, 3, 2, 1⟩ && cursorIs t 16 0 0) &&
    shows (.uncompressedRValues 3 2 1) s0 (fun t => t.blk == ⟨.none, 0, 0, 3, 2, 1⟩) &&
    shows .alignPadding (midway block512 4 0x0060 5) (fun t => cursorIs t 4 0x0060 0) = true := by decide +kernel

/-! ### Elements (section 5, `R = (10, 20, 30)`) -/

/-- V5.1 and the accounting of R269. -/
theorem test_literal : shows (.literal 0x41) (inBlock .verbatim 3 [])
    (fun t => t.rep == ⟨10, 20, 30⟩ && t.blk.remaining == 2 && t.cmd.produced == 1 && t.win.cells == [(0, 0x41)] && t.win.pos == 1) = true := by
  decide +kernel

theorem test_literal_overrun : faultsWith (.literal 0x41) (inBlock .verbatim 0 []) 5 0 = true := by decide +kernel

def matches_ (i : Instr) (s : State) (offset : Word32) (length : Nat) (rep : OffsetCache) : Bool :=
  shows i s (fun t => t.elt.offset == offset && t.win.pos == length && t.blk.remaining + length == s.blk.remaining && t.rep == rep)

/-- V5.2 to V5.4, and S8 (V5.16). -/
theorem test_match_cached : matches_ (.matchSlot0 0) (inBlock .verbatim 9 []) 10 2 ⟨10, 20, 30⟩ &&
    matches_ (.matchSlot1 1) (inBlock .aligned 9 []) 20 3 ⟨20, 10, 30⟩ && matches_ (.matchSlot2 6) (inBlock .verbatim 9 []) 30 8 ⟨30, 20, 10⟩ &&
    matches_ (.matchSlot0 0) { inBlock .verbatim 9 [] with rep := ⟨20, 10, 30⟩ } 20 2 ⟨20, 10, 30⟩ = true := by decide +kernel

/-- V5.6: the length symbol 0, and 248 (the table's two symbols have the codes `0` and `1`). -/
theorem test_match_long :
    matches_ (.matchSlot0 7) ((inBlock .verbatim 999 [0x00, 0x00]).setTable .len ⟨(List.replicate 249 0).set 0 1, 1, [0, 248], true⟩) 10 9
      ⟨10, 20, 30⟩ &&
    matches_ (.matchSlot0 7) ((inBlock .verbatim 999 [0x00, 0x80]).setTable .len ⟨(List.replicate 249 0).set 248 1, 1, [0, 248], true⟩) 10 257
      ⟨10, 20, 30⟩ && faultsWith (.matchSlot0 7) (inBlock .verbatim 999 [0x00, 0x80]) 4 7 = true := by decide +kernel

/-- V5.5, V5.7, V5.14. -/
theorem test_match_verbatim : matches_ (.matchSlot3 0) (inBlock .aligned 9 []) 1 2 ⟨1, 10, 20⟩ &&
    matches_ (.matchSlot8 0) (inBlock .verbatim 9 [0x00, 0xA0]) 19 2 ⟨19, 10, 20⟩ &&
    matches_ (.matchSlot6 0) (inBlock .aligned 9 [0x00, 0xC0]) 9 2 ⟨9, 10, 20⟩ = true := by decide +kernel

/-- V5.8, V5.9: the aligned path. -/
theorem test_match_aligned :
    matches_ (.matchSlot8 0) ((inBlock .aligned 9 [0x00, 0xA0]).setTable .align (tableOf .align [3, 3, 3, 3, 3, 3, 3, 3])) 19 2 ⟨19, 10, 20⟩ &&
    matches_ (.matchSlot10 0) ((inBlock .aligned 9 [0x00, 0xA0]).setTable .align (tableOf .align [3, 3, 3, 3, 3, 3, 3, 3])) 40 2 ⟨40, 10, 20⟩ = true := by
  decide +kernel

/-- Accounting (R269): a match of 4 with 4 left is legal, with 3 left it overruns. -/
theorem test_match_overrun : matches_ (.matchSlot0 2) (inBlock .verbatim 4 []) 10 4 ⟨10, 20, 30⟩ &&
    faultsWith (.matchSlot0 2) (inBlock .verbatim 3 []) 5 0 = true := by decide +kernel

/-- Slots 3 to 97: the raw bits read and the lowest match offset, from the table of R108. -/
def slotRows : List (Nat × Instr × Nat) :=
  [(0, Instr.matchSlot3 0, 1), (1, Instr.matchSlot4 0, 2), (1, Instr.matchSlot5 0, 4), (2, Instr.matchSlot6 0, 6), (2, Instr.matchSlot7 0, 10), (3, Instr.matchSlot8 0, 14)] ++
  [(3, Instr.matchSlot9 0, 22), (4, Instr.matchSlot10 0, 30), (4, Instr.matchSlot11 0, 46), (5, Instr.matchSlot12 0, 62), (5, Instr.matchSlot13 0, 94), (6, Instr.matchSlot14 0, 126)] ++
  [(6, Instr.matchSlot15 0, 190), (7, Instr.matchSlot16 0, 254), (7, Instr.matchSlot17 0, 382), (8, Instr.matchSlot18 0, 510), (8, Instr.matchSlot19 0, 766), (9, Instr.matchSlot20 0, 1022)] ++
  [(9, Instr.matchSlot21 0, 1534), (10, Instr.matchSlot22 0, 2046), (10, Instr.matchSlot23 0, 3070), (11, Instr.matchSlot24 0, 4094), (11, Instr.matchSlot25 0, 6142), (12, Instr.matchSlot26 0, 8190)] ++
  [(12, Instr.matchSlot27 0, 12286), (13, Instr.matchSlot28 0, 16382), (13, Instr.matchSlot29 0, 24574), (14, Instr.matchSlot30 0, 32766), (14, Instr.matchSlot31 0, 49150), (15, Instr.matchSlot32 0, 65534)] ++
  [(15, Instr.matchSlot33 0, 98302), (16, Instr.matchSlot34 0, 131070), (16, Instr.matchSlot35 0, 196606), (17, Instr.matchSlot36 0, 262142), (17, Instr.matchSlot37 0, 393214), (17, Instr.matchSlot38 0, 524286)] ++
  [(17, Instr.matchSlot39 0, 655358), (17, Instr.matchSlot40 0, 786430), (17, Instr.matchSlot41 0, 917502), (17, Instr.matchSlot42 0, 1048574), (17, Instr.matchSlot43 0, 1179646), (17, Instr.matchSlot44 0, 1310718)] ++
  [(17, Instr.matchSlot45 0, 1441790), (17, Instr.matchSlot46 0, 1572862), (17, Instr.matchSlot47 0, 1703934), (17, Instr.matchSlot48 0, 1835006), (17, Instr.matchSlot49 0, 1966078), (17, Instr.matchSlot50 0, 2097150)] ++
  [(17, Instr.matchSlot51 0, 2228222), (17, Instr.matchSlot52 0, 2359294), (17, Instr.matchSlot53 0, 2490366), (17, Instr.matchSlot54 0, 2621438), (17, Instr.matchSlot55 0, 2752510), (17, Instr.matchSlot56 0, 2883582)] ++
  [(17, Instr.matchSlot57 0, 3014654), (17, Instr.matchSlot58 0, 3145726), (17, Instr.matchSlot59 0, 3276798), (17, Instr.matchSlot60 0, 3407870), (17, Instr.matchSlot61 0, 3538942), (17, Instr.matchSlot62 0, 3670014)] ++
  [(17, Instr.matchSlot63 0, 3801086), (17, Instr.matchSlot64 0, 3932158), (17, Instr.matchSlot65 0, 4063230), (17, Instr.matchSlot66 0, 4194302), (17, Instr.matchSlot67 0, 4325374), (17, Instr.matchSlot68 0, 4456446)] ++
  [(17, Instr.matchSlot69 0, 4587518), (17, Instr.matchSlot70 0, 4718590), (17, Instr.matchSlot71 0, 4849662), (17, Instr.matchSlot72 0, 4980734), (17, Instr.matchSlot73 0, 5111806), (17, Instr.matchSlot74 0, 5242878)] ++
  [(17, Instr.matchSlot75 0, 5373950), (17, Instr.matchSlot76 0, 5505022), (17, Instr.matchSlot77 0, 5636094), (17, Instr.matchSlot78 0, 5767166), (17, Instr.matchSlot79 0, 5898238), (17, Instr.matchSlot80 0, 6029310)] ++
  [(17, Instr.matchSlot81 0, 6160382), (17, Instr.matchSlot82 0, 6291454), (17, Instr.matchSlot83 0, 6422526), (17, Instr.matchSlot84 0, 6553598), (17, Instr.matchSlot85 0, 6684670), (17, Instr.matchSlot86 0, 6815742)] ++
  [(17, Instr.matchSlot87 0, 6946814), (17, Instr.matchSlot88 0, 7077886), (17, Instr.matchSlot89 0, 7208958), (17, Instr.matchSlot90 0, 7340030), (17, Instr.matchSlot91 0, 7471102), (17, Instr.matchSlot92 0, 7602174)] ++
  [(17, Instr.matchSlot93 0, 7733246), (17, Instr.matchSlot94 0, 7864318), (17, Instr.matchSlot95 0, 7995390), (17, Instr.matchSlot96 0, 8126462), (17, Instr.matchSlot97 0, 8257534)]

/-- In a Verbatim block with zero bits to come, each slot reads `FOOTER_BITS` bits and gives its lowest offset (R108, R214). -/
theorem test_match_slots : slotRows.all (fun p => shows p.2.1 (inBlock .verbatim 9 (List.replicate 4 0))
    (fun t => t.elt.offset.toNat == p.2.2 && t.br.stream.length + p.1 == 32 && t.rep.r0.toNat == p.2.2 && t.rep.r1 == 10)) = true := by
  decide +kernel

/-- V5.15: slot 29 with `v = 8191` gives 32765, and a length symbol in front. -/
theorem test_match_slot29 :
    matches_ (.matchSlot29 7) ((inBlock .verbatim 999 [0xFF, 0x7F, 0x00, 0x80]).setTable .len ⟨(List.replicate 249 0).set 0 1, 1, [0, 248], true⟩)
      32765 9 ⟨32765, 10, 20⟩ = true := by decide +kernel

/-- R103: the lengths 2 to 8, and the long ones. -/
theorem test_length_headers :
    [(Instr.lenHdr0, 2), (Instr.lenHdr1, 3), (Instr.lenHdr2, 4), (Instr.lenHdr3, 5), (Instr.lenHdr4, 6), (Instr.lenHdr5, 7),
      (Instr.lenHdr6, 8), (Instr.lengthSymbol 0, 9), (Instr.lengthSymbol 248, 257)].all
      (fun p => shows p.1 s0 (fun t => t.elt.length == p.2)) &&
    shows .lenHdr7 ((onBytes [0x00, 0x80]).setTable .len (tableOf .len [1, 0, 0, 1])) (fun t => t.elt.length == 12) &&
    shows (.matchLength 7) ((onBytes [0x00, 0x80]).setTable .len (tableOf .len [1, 0, 0, 1])) (fun t => gives t 12) &&
    shows (.matchLength 4) s0 (fun t => gives t 6) = true := by decide +kernel

/-- V5.2 to V5.4 as operations. -/
theorem test_matchOffset_cached : shows .matchOffsetSlot0 (inBlock .verbatim 9 []) (fun t => gives t 10 && t.rep == ⟨10, 20, 30⟩) &&
    shows .matchOffsetSlot1 (inBlock .verbatim 9 []) (fun t => gives t 20 && t.rep == ⟨20, 10, 30⟩) &&
    shows .matchOffsetSlot2 (inBlock .verbatim 9 []) (fun t => gives t 30 && t.rep == ⟨30, 20, 10⟩) &&
    shows (.pushOffset 5) (inBlock .verbatim 9 []) (fun t => t.rep == ⟨5, 10, 20⟩) = true := by decide +kernel

/-- V5.7, V5.9, V5.14 as operations; slots outside their domains. -/
theorem test_matchOffset_coded : shows (.matchOffsetVerbatim 8) (inBlock .verbatim 9 [0x00, 0xA0]) (fun t => gives t 19 && t.rep == ⟨19, 10, 20⟩) &&
    shows (.matchOffsetAligned 10) ((inBlock .aligned 9 [0x00, 0xA0]).setTable .align (tableOf .align [3, 3, 3, 3, 3, 3, 3, 3]))
      (fun t => gives t 40 && t.rep == ⟨40, 10, 20⟩) &&
    shows (.matchOffsetAlignedShort 6) (inBlock .aligned 9 [0x00, 0xC0]) (fun t => gives t 9 && t.rep == ⟨9, 10, 20⟩) &&
    outside (.matchOffsetVerbatim 2) s0 && outside (.matchOffsetVerbatim 98) s0 && outside (.matchOffsetAligned 7) s0 &&
    outside (.matchOffsetAlignedShort 8) s0 = true := by decide +kernel

/-- V5.9 in parts: the footer field leaves `v`, the aligned symbol completes the offset; V5.7: the footer field completes it. -/
theorem test_offset_fields :
    shows .footerBitsField ((inBlock .aligned 9 [0x00, 0xA0]).setElt ⟨10, 2, 0, 0⟩) (fun t => t.elt.v == 1 && t.rep == ⟨10, 20, 30⟩) &&
    shows (.alignedSymbol 2) ((inBlock .aligned 9 []).setElt ⟨10, 2, 1, 0⟩) (fun t => t.elt.offset == 40 && t.rep == ⟨40, 10, 20⟩) &&
    shows .footerBitsField ((inBlock .verbatim 9 [0x00, 0xA0]).setElt ⟨8, 2, 0, 0⟩) (fun t => t.elt.offset == 19 && t.rep == ⟨19, 10, 20⟩) = true := by
  decide +kernel

/-- The Uncompressed element with 4, 2 and 0 bytes left (section 5). -/
theorem test_decodeUncompressed :
    shows .decodeUncompressed (inBlock .uncompressed 3 [1, 2, 3, 4]) (fun t => t.ret == .element (.bulkRead 3) && t.rep == ⟨7, 8, 9⟩) &&
    shows .decodeElement (inBlock .uncompressed 3 [1, 2]) (fun t => t.ret == .element (.bulkRead 2) && t.br.bytePos == 0) &&
    faultsWith .decodeUncompressed (inBlock .uncompressed 3 []) 8 1 = true := by decide +kernel

theorem test_rawBytes : shows .rawBytes (inBlock .uncompressed 3 [0x68, 0x69])
    (fun t => t.rep == ⟨7, 8, 9⟩ && t.win.cells == [(0, 0x68), (1, 0x69)] && t.blk.remaining == 1 && t.cmd.produced == 2 && t.br.bytePos == 2) &&
    faultsWith .rawBytes (inBlock .uncompressed 3 []) 8 1 = true := by decide +kernel

/-- P2's main table: codes 97 `00`, 98 `01`, 256 `10`, 290 `11`; P2's third element. -/
def mainP2 : Table := ⟨(((List.replicate 496 0).set 97 2).set 98 2 |>.set 256 2).set 290 2, 2, [97, 98, 256, 290], true⟩

theorem test_decodeCoded :
    shows .decodeCoded ((onBytes [0x00, 0xC0]).setTable .main mainP2) (fun t => t.ret == .element (.matched 2 4) && t.rep == ⟨2, 1, 1⟩ && cursorIs t 2 0xC000 13) &&
    shows .decodeElement ((inBlock .verbatim 8 [0x00, 0x40]).setTable .main mainP2) (fun t => t.ret == .element (.literal 0x62) && t.blk.remaining == 8) = true := by
  decide +kernel

/-! ### SlidingWindow (section 6) -/

def windowOf (cells : List Host.Cell) (pos : Nat) (bs : List Byte := []) : State := (onBytes bs).setWin ⟨cells, pos⟩

/-- V6.1. -/
theorem test_push : shows (.push 0x62) (windowOf [(0, 0x61)] 1) (fun t => t.win == ⟨[(0, 0x61), (1, 0x62)], 2⟩) = true := by decide +kernel

/-- Writing 0x00 takes the address out of the list; the position wraps at `W`. -/
theorem test_push_zero : shows (.push 0x00) (windowOf [(0, 0x61), (131071, 0x62)] 131071) (fun t => t.win == ⟨[(0, 0x61)], 0⟩) = true := by
  decide +kernel

/-- V6.2. -/
theorem test_copyFromSelf : shows (.copyFromSelf 2 5) (windowOf [(0, 0x61), (1, 0x62)] 2)
    (fun t => t.win == ⟨[(0, 0x61), (1, 0x62), (2, 0x61), (3, 0x62), (4, 0x61), (5, 0x62), (6, 0x61)], 7⟩) = true := by decide +kernel

/-- V6.4: both ranges wrap; then the view of 7. -/
theorem test_copyFromSelf_wraps : shows (.copyFromSelf 2 5) (windowOf [(131068, 0x61), (131069, 0x62)] 131070)
    (fun t => t.win == ⟨[(0, 0x61), (1, 0x62), (2, 0x61), (131068, 0x61), (131069, 0x62), (131070, 0x61), (131071, 0x62)], 3⟩ &&
      shows (.pastView 7) t (fun u => u.ret == .bytes [0x61, 0x62, 0x61, 0x62, 0x61, 0x62, 0x61])) = true := by decide +kernel

/-- V6.5 to V6.7. -/
theorem test_copyFromSelf_range : shows (.copyFromSelf 1 3) s0 (fun t => t.win == ⟨[], 3⟩) &&
    shows (.copyFromSelf 131072 2) (windowOf [(0, 0x78), (1, 0x79), (2, 0x61), (3, 0x62)] 4) (fun t => t.win.pos == 6 && t.win.cells.length == 4) &&
    faultsWith (.copyFromSelf 0 2) s0 9 1 && faultsWith (.copyFromSelf 131073 2) s0 9 2 = true := by decide +kernel

/-- V6.8. -/
theorem test_pastView : shows (.pastView 4) (windowOf [(0, 0x61), (1, 0x62)] 2) (fun t => t.ret == .bytes [0, 0, 0x61, 0x62]) &&
    shows (.pastView 0) s0 (fun t => t.ret == .bytes []) && outside (.pastView 32769) s0 = true := by decide +kernel

/-- V6.9 to V6.11. -/
theorem test_copyFromBitstream : shows (.copyFromBitstream 3) (windowOf [] 0 [0x68, 0x69, 0x6A])
    (fun t => t.win == ⟨[(0, 0x68), (1, 0x69), (2, 0x6A)], 3⟩ && t.br.bytePos == 3) &&
    shows (.readBytesInto 2) (windowOf [] 131071 [0x68, 0x69]) (fun t => t.win == ⟨[(0, 0x69), (131071, 0x68)], 1⟩) &&
    faultsWith (.copyFromBitstream 2) (windowOf [] 0 [0x68]) 1 4 = true := by decide +kernel

/-! ### Commands (sections 7 and 8) -/

/-- P1 (S4). -/
def p1 : List Byte :=
  [0x00, 0x30, 0x30, 0x00, 0x01, 0x00, 0x00, 0x00, 0x01, 0x00, 0x00, 0x00, 0x01, 0x00, 0x00, 0x00, 0x61, 0x62, 0x63, 0x00]

/-- P2. -/
def p2 : List Byte :=
  [0x00, 0x10, 0x80, 0x00, 0x00, 0x00, 0x00, 0x00, 0x00, 0x00, 0x20, 0x00, 0x07, 0x21, 0xa7, 0xda, 0x7f, 0xdf, 0x00, 0x00] ++
  [0x00, 0x00, 0x00, 0x00, 0x00, 0x00, 0x21, 0x20, 0xd9, 0x08, 0xdf, 0xf7, 0x00, 0x73, 0x00, 0x00, 0x00, 0x00, 0x00, 0x00] ++
  [0x00, 0x00, 0x0f, 0x11, 0xff, 0xff, 0x47, 0xfe, 0x00, 0x40]

/-- P3, the second chunk after P2. -/
def p3 : List Byte :=
  [0x00, 0x40, 0x69, 0x02, 0x00, 0x24, 0x00, 0x02, 0x00, 0x00, 0x00, 0x00, 0x00, 0x00, 0x44, 0x00, 0xfd, 0x1f, 0xff, 0x1f] ++
  [0x80, 0xff, 0x00, 0x00, 0x00, 0x00, 0x00, 0x00, 0x88, 0x00, 0x82, 0x08, 0x21, 0xb3, 0xff, 0x91, 0xfe, 0xff, 0x00, 0x12] ++
  [0x00, 0x00, 0x00, 0x00, 0x00, 0x00, 0x22, 0x02, 0x1f, 0x04, 0xff, 0xff, 0xea, 0xff, 0xd2, 0x7e]

/-- P4. -/
def p4 : List Byte :=
  [0x00, 0x30, 0x30, 0x00, 0x07, 0x00, 0x00, 0x00, 0x08, 0x00, 0x00, 0x00, 0x09, 0x00, 0x00, 0x00, 0x78, 0x79, 0x7a, 0x00] ++
  [0x00, 0x60, 0x40, 0x00, 0x03, 0x00, 0x00, 0x00, 0x02, 0x00, 0x00, 0x00, 0x01, 0x00, 0x00, 0x00, 0x68, 0x69]

/-- The second chunk of PF1 and PF2. -/
def pf2 : List Byte :=
  [0x00, 0x20, 0x00, 0x01, 0x00, 0x00, 0x00, 0x00, 0x00, 0x00, 0x40, 0x00, 0x0f, 0x42, 0x4f, 0xb5, 0xfe, 0xbe, 0x00, 0x00] ++
  [0x00, 0x00, 0x00, 0x00, 0x00, 0x00, 0x42, 0x40, 0xb3, 0x11, 0xbe, 0xef, 0x00, 0xe6, 0x00, 0x00, 0x00, 0x00, 0x00, 0x00] ++
  [0x00, 0x00, 0x1f, 0x22, 0xff, 0xff, 0x8c, 0xfc]

/-- The window after some pushes from reset. -/
def windowIs (t : State) (bs : List Byte) : Bool := t.win == (⟨[], 0⟩ : Window).pushAll (2 ^ 17) bs

/-- P1. -/
theorem test_p1 : shows (.decompressChunkInto p1 3) s0 (fun t => t.result == .bytesWritten 3 && t.out == [0x61, 0x62, 0x63] &&
    t.rep == ⟨1, 1, 1⟩ && t.blk == ⟨.uncompressed, 3, 0, 1, 1, 1⟩ && t.win == ⟨[(0, 0x61), (1, 0x62), (2, 0x63)], 3⟩ && cursorIs t 19 0 0 &&
    t.chunkOffset == 3 && t.decodedChunks == 1) = true := by decide +kernel

def ab8 : List Byte := [0x61, 0x62, 0x61, 0x62, 0x61, 0x62, 0x61, 0x62]

/-- P2. -/
theorem test_p2 : shows (.decompressChunk p2 (some 8)) s0 (fun t => t.result == .bytes ab8 && t.rep == ⟨2, 1, 1⟩ && t.blk.remaining == 0 &&
    windowIs t ab8 && t.main == mainP2 && !t.len.present && t.chunkOffset == 8 && t.decodedChunks == 1 && cursorIs t 50 0x4000 13) = true := by
  decide +kernel

/-- P3's output: "aabababababababbaab". -/
def p3out : List Byte :=
  [0x61, 0x61, 0x62, 0x61, 0x62, 0x61, 0x62, 0x61, 0x62, 0x61, 0x62, 0x61, 0x62, 0x61, 0x62, 0x62, 0x61, 0x61, 0x62]

/-- The registers P3 starts from: P2's end state. -/
def afterP2 : State :=
  { s0.setWin ((⟨[], 0⟩ : Window).pushAll (2 ^ 17) ab8) with
    rep := ⟨2, 1, 1⟩, main := mainP2, blk := ⟨.verbatim, 8, 0, 0, 0, 0⟩, chunkOffset := 8, decodedChunks := 1 }

/-- P3. -/
theorem test_p3 : shows (.decompressChunk p3 (some 19)) afterP2 (fun t => t.result == .bytes p3out && t.rep == ⟨16, 2, 5⟩ &&
    windowIs t (ab8 ++ p3out) && t.main.tab == [97, 97, 98, 98, 321, 321, 271, 296] && t.len.tab == [0, 3] && t.align.tab == [0, 1, 2, 3] &&
    t.chunkOffset == 27 && t.decodedChunks == 2 && cursorIs t 56 0x7ED2 1) = true := by decide +kernel

/-- P4, whole: the pad byte between the blocks. -/
theorem test_p4 : shows (.decompressChunk p4 (some 5)) s0 (fun t => t.result == .bytes [0x78, 0x79, 0x7A, 0x68, 0x69] && t.rep == ⟨3, 2, 1⟩ &&
    t.win.pos == 5 && t.chunkOffset == 5 && t.decodedChunks == 1 && t.br.bytePos == 38) = true := by decide +kernel

/-- P4, split: chunk B begins with the pad byte chunk A left owed, and its words stand at odd addresses. -/
theorem test_p4_split : shows (.decompressChunk (p4.drop 19) (some 2))
    { s0.setBlk ⟨.uncompressed, 3, 0, 7, 8, 9⟩ with rep := ⟨7, 8, 9⟩, decodedChunks := 1, chunkOffset := 3 }
    (fun t => t.result == .bytes [0x68, 0x69] && t.rep == ⟨3, 2, 1⟩ && t.chunkOffset == 5 && t.br.bytePos == 19) = true := by decide +kernel

/-- The registers the second chunk of PF1 and PF2 starts from. -/
def afterPf (r0 : Word32) : State :=
  { (s0.setWin ⟨[(0, 0x78), (1, 0x79)], 2⟩).setBlk ⟨.uncompressed, 2, 0, r0, 1, 1⟩ with rep := ⟨r0, 1, 1⟩, decodedChunks := 1, chunkOffset := 2 }

/-- PF1 and PF2. -/
theorem test_pf : faultsWith (.decompressChunk pf2 (some 8)) (afterPf 0) 9 1 && faultsWith (.decompressChunk pf2 (some 8)) (afterPf 131073) 9 2 &&
    shows (.decompressChunk pf2 (some 4)) (afterPf 131072)
      (fun t => t.result == .bytes [0x61, 0x62, 0x00, 0x00] && t.rep == ⟨131072, 1, 1⟩ && t.blk.remaining == 4 && t.win.pos == 6 &&
        t.br.bytePos == 48 && t.br.bitsLeft == 1) = true := by
  decide +kernel

/-- PF3, V7.15 and V7.16. -/
theorem test_pf3 : faultsWith (.decompressChunk (p2.take 48) (some 8)) s0 1 1 && faultsWith (.decompressChunk (p2.set 2 0x50) (some 5)) s0 5 0 &&
    faultsWith (.decompressChunk (p2.set 2 0x00) (some 1)) s0 3 0 = true := by decide +kernel

/-- V7.1 to V7.8. -/
theorem test_v7_faults : faultsWith (.decompressChunk [0x00, 0x80] (some 1)) s0 6 0 && faultsWith (.decompressChunk [0, 0, 0, 0] (some 1)) s0 2 0 &&
    faultsWith (.decompressChunk [0, 0] (some 1)) s0 1 1 && faultsWith (.decompressChunk [0x00, 0x40, 0, 0] (some 1)) s0 2 4 &&
    faultsWith (.decompressChunk [0x00, 0x70, 0, 0] (some 1)) s0 2 7 &&
    faultsWith (.decompressChunk ((p1.take 16).set 2 0) (some 1)) s0 3 0 && faultsWith (.decompressChunk ((p1.take 8).set 2 0) (some 1)) s0 1 1 &&
    faultsWith (.decompressChunk [] (some 0)) s0 1 1 = true := by decide +kernel

/-- V7.9 to V7.12 and V7.14. -/
theorem test_v7_ends :
    shows (.decompressChunk [0, 0] (some 0)) s0 (fun t => t.result == .bytes [] && t.decodedChunks == 1 && t.chunkOffset == 0) &&
    faultsWith (.decompressChunk (p1.take 18) (some 3)) s0 8 1 && faultsWith (.decompressChunk (p1.take 16) (some 3)) s0 8 1 &&
    shows (.decompressChunk p1 (some 2)) s0 (fun t => t.result == .bytes [0x62, 0x63] && t.blk.remaining == 0 && t.win.pos == 3 && t.chunkOffset == 2) &&
    faultsWith (.decompressChunk ([0x00, 0x10, 0x10] ++ List.replicate 11 0) (some 1)) s0 4 3 = true := by decide +kernel

/-- V7.13, V7.18, V7.19: refusals change nothing but the result. -/
theorem test_v7_refusals :
    shows (.decompressChunk p1 (some 32769)) s0 (fun t => t == s0.setResult (.refused .outputSizeRange)) &&
    shows (.decompressChunk p1 (some 3)) { s0 with constructed := false } (fun t => t.result == .refused .notConstructed && t.br == s0.br) &&
    shows .reset { s0 with constructed := false } (fun t => t.result == .refused .notConstructed && !t.constructed) &&
    shows (.decompressChunk p1 (some 3)) { s0 with fault := ⟨true, 6, 0⟩ } (fun t => t.result == .refused .faulted && t.fault == ⟨true, 6, 0⟩) = true := by
  decide +kernel

/-- V7.20: a pad byte from a new chunk, words at odd addresses, no E8 bit on a second chunk. -/
theorem test_v7_20 : faultsWith (.decompressChunk p1 (some 3)) (after (.decompressChunk p1 (some 3)) s0) 4 1 = true := by decide +kernel

/-- R262, R314: a reset of a FAULTED core gives the reset values. -/
theorem test_reset : shows .reset { s0 with fault := ⟨true, 6, 0⟩, rep := ⟨3, 4, 5⟩, decodedChunks := 7 } (fun t => t == s0.setResult .completed) = true := by
  decide +kernel

/-- R261: a legal size gives its reset values; V7.17: any other leaves the core unconstructed with the result `Fault(7, 0)`. -/
theorem test_construct : shows (.construct (2 ^ 18)) s0 (fun t => t == (State.resetOf (2 ^ 18)).setResult .completed) &&
    (after (.construct 0x8000) s0).result == .fault 7 0 && !(after (.construct 0x8000) s0).constructed = true := by decide +kernel

/-- The rows of a chunk's edges (R265, R267, R91). -/
theorem test_edges : shows .e8Clear s0 (fun t => t == s0) && faultsWith .e8Set s0 6 0 && shows .padByte (onBytes [0xFF]) (fun t => t.br.bytePos == 1) &&
    faultsWith .padByte (onBytes []) 1 3 &&
    shows .chunkTail { windowOf [(0, 0x61), (1, 0x62)] 2 with cmd := ⟨2, 2, true⟩ }
      (fun t => t.result == .bytes [0x61, 0x62] && t.out == [0x61, 0x62] && t.chunkOffset == 2 && t.decodedChunks == 1) = true := by decide +kernel

/-- The verbatim body of P2 by `readTables` (R188): the reader stands behind the header. -/
theorem test_readTables : shows .readTables (midway p2 4 0x0080 4)
    (fun t => t.main == mainP2 && !t.len.present && t.br.bytePos == 48 && t.br.bitsLeft == 6) = true := by decide +kernel

/-- One step runs a placed word; the idle core waits. -/
theorem test_step : (match step (State.reset.withFetchWord 16 0b00100000000) with
    | .next t => t.win.pos == 2 && t.rep == ⟨1, 1, 1⟩ && t.elt.offset == 1 && t.elt.length == 2
    | _ => false) = true := by decide +kernel

theorem test_step_idle : step s0 = .next s0 := rfl

/-! ### Every statement's hypotheses are met -/

/-- The operation completes with this value. -/
def okWith {α : Type} [DecidableEq α] (m : Op α) (s : State) (a : α) : Bool :=
  match m s with
  | .ok b _ => decide (b = a)
  | _ => false

/-- The state an operation leaves. -/
def left {α : Type} (m : Op α) (s : State) : State :=
  match m s with
  | .ok _ t => t
  | _ => s

theorem ok_left {α : Type} [DecidableEq α] {m : Op α} {s : State} {a : α} (h : okWith m s a = true) : m s = .ok a (left m s) := by
  unfold okWith at h
  unfold left
  split at h
  · next b t hb => rw [hb, of_decide_eq_true h]
  · cases h

def raisesWith {α : Type} (m : Op α) (s : State) (k : FaultKind) : Bool :=
  match m s with
  | .raise j => decide (j = k)
  | _ => false

theorem faults_of {m : Op Unit} {s : State} {k : FaultKind} {i : Instr} (hi : exec i s = m.run s) (h : raisesWith m s k = true) :
    Faults i s k := by
  unfold raisesWith at h
  unfold Faults
  rw [hi]
  split at h
  · next j hj => rw [Op.run_of_raise hj, of_decide_eq_true h]
  · cases h

/-- A window in canonical form is well formed. -/
theorem wf_of {w : Window} {size : Nat} (h : (memWf w.cells && memBelow size w.cells && decide (w.pos < size)) = true) : w.Wf size := by
  simp only [Bool.and_eq_true, decide_eq_true_eq] at h
  exact ⟨h.1.1, h.1.2, h.2⟩

theorem witness_DecodeEncodeRoundTrip :
    (Instr.matchSlot97 7).wellFormed = true ∧ encode (.matchSlot97 7) = some (.mainSymbol, 1039) := by decide

theorem witness_EncodeDecodeRoundTrip : decode .lengthSymbol 248 = .ok (.lengthSymbol 248) := rfl

/-- `Reads` at each of its places, with a pattern that decodes. -/
theorem witness_StepRunsDecodedInstruction_fields :
    (∃ t, Reads { onBytes [0x00, 0x80] with phase := .e8 } .chunkPrefix 1 t ∧ decode .chunkPrefix 1 = .ok .e8Set) ∧
    (∃ t, Reads { onBytes [0x00, 0x20, 0x00, 0x01] with phase := .header } .blockHeader 0x1000008 t ∧
      decode .blockHeader 0x1000008 = .ok (.blockVerbatim 8)) ∧
    (∃ t, Reads { onBytes (block512.drop 4) with phase := .rValues } .rValues (rValuesWord 3 2 1) t ∧
      decode .rValues (rValuesWord 3 2 1) = .ok (.uncompressedRValues 3 2 1)) ∧
    (∃ t, Reads { onBytes [0x20, 0x49, 0x00, 0x00] with phase := .alignedLens } .alignedLengths 0x492000 t ∧
      decode .alignedLengths 0x492000 = .ok (.alignedLengths 0x492000)) ∧
    (∃ t, Reads { onBytes update41 with phase := .pretreeLens .matches } .pretreeLengths 0x02000000000000002202 t ∧
      decode .pretreeLengths 0x02000000000000002202 = .ok (.pretreeLengths 0x02000000000000002202)) :=
  ⟨⟨_, ok_left (a := 1) (by decide +kernel), rfl⟩,
    ⟨_, ⟨1, 8, ok_left (by decide +kernel), rfl⟩, rfl⟩,
    ⟨_, ⟨3, 2, 1, ok_left (by decide +kernel), rfl⟩, decode_of (by decide +kernel)⟩,
    ⟨_, ⟨0x492000, ok_left (by decide +kernel), rfl⟩, rfl⟩,
    ⟨_, ⟨0x02000000000000002202, ok_left (by decide +kernel), rfl⟩, decode_of (by decide +kernel)⟩⟩

theorem witness_StepRunsDecodedInstruction_symbols :
    (∃ t, Reads { (onBytes [0x00, 0xC0]).setTable .pre pretree4 with phase := .pretreeSym .lengths } .pretreeSymbol 19 t ∧
      decode .pretreeSymbol 19 = .ok .ptSameRun) ∧
    (∃ t, Reads { (inBlock .verbatim 8 [0x00, 0xC0]).setTable .main mainP2 with phase := .element } .mainSymbol 290 t ∧
      decode .mainSymbol 290 = .ok (.matchSlot4 2)) ∧
    (∃ t, Reads { inBlock .uncompressed 3 [1] with phase := .element } .rawBytes 0 t ∧ decode .rawBytes 0 = .ok .rawBytes) ∧
    (∃ t, Reads { s0 with phase := .alignPad } .alignPadding 0 t ∧ decode .alignPadding 0 = .ok .alignPadding) ∧
    (∃ t, Reads { s0 with phase := .padByte } .padByte 0 t ∧ decode .padByte 0 = .ok .padByte) ∧
    (∃ t, Reads { s0 with phase := .tail } .chunkTail 0 t ∧ decode .chunkTail 0 = .ok .chunkTail) :=
  ⟨⟨_, ok_left (a := 19) (by decide +kernel), rfl⟩,
    ⟨_, ⟨by decide +kernel, ok_left (a := 290) (by decide +kernel)⟩, rfl⟩,
    ⟨_, ⟨rfl, rfl, rfl⟩, rfl⟩, ⟨_, ⟨rfl, rfl⟩, rfl⟩, ⟨_, ⟨rfl, rfl⟩, rfl⟩, ⟨_, ⟨rfl, rfl⟩, rfl⟩⟩

/-- One bit too few for each item: 0, 26, 95, 23 and 79. -/
theorem witness_TruncatedStreamFaults :
    (onBytes [0x00]).br.stream.length = 0 ∧ (midway [0, 0, 0, 0] 2 0 10).br.stream.length = 26 ∧
    (midway (List.replicate 12 0) 2 0 15).br.stream.length = 95 ∧ (midway [0, 0, 0, 0] 2 0 7).br.stream.length = 23 ∧
    (midway (List.replicate 10 0) 2 0 15).br.stream.length = 79 := by decide +kernel

/-- A pretree and a main symbol whose code is one bit longer than the bits left; no byte left for a pad byte, nor for raw bytes. -/
theorem witness_TruncatedStreamFaults_symbols :
    (let s := { (midway [0xFF, 0xFF] 2 0xFFFF 4).setTable .pre (tableOf .pre fullPretree) with phase := .pretreeSym .matches };
      s.phase = .pretreeSym .matches ∧ (s.table .pre).present = true ∧ (s.table .pre).maxLength ≤ 16 ∧
      (s.table .pre).tab[bitsValue (s.br.peekStream.take (s.table .pre).maxLength)]? = some 18 ∧
      s.br.stream.length + 1 = lenAt (s.table .pre).lens 18) ∧
    (let s := { (inBlock .verbatim 8 []).setTable .main (tableOf .main [1, 2, 3, 3]) with phase := .element };
      s.phase = .element ∧ s.blk.kind ≠ .uncompressed ∧ (s.table .main).present = true ∧ (s.table .main).maxLength ≤ 16 ∧
      (s.table .main).tab[bitsValue (s.br.peekStream.take (s.table .main).maxLength)]? = some 0 ∧
      s.br.stream.length + 1 = lenAt (s.table .main).lens 0) ∧
    (let s := { onBytes [] with phase := .padByte }; s.phase = .padByte ∧ s.br.len < s.br.bytePos + 1) ∧
    (let s := { inBlock .uncompressed 3 [] with phase := .element };
      s.phase = .element ∧ s.blk.kind = .uncompressed ∧ s.br.len ≤ s.br.bytePos) := by decide +kernel

/-- Each case of the idle core, on a refused chunk and on each start of an accepted one. -/
theorem witness_IdleCoreTakesHostCommands : s0.phase = .idle ∧ s0.host = [] ∧
    refusal? 20 32769 s0 = some .outputSizeRange ∧ refusal? 20 32768 s0 = none ∧ s0.decodedChunks = 0 ∧
    (let s := { s0 with decodedChunks := 1, host := [.construct 5, .reset, .decompressChunk p1 none, .decompressChunkInto p1 0] };
      refusal? 20 3 s = none ∧ s.decodedChunks ≠ 0 ∧ s.blk.remaining = 0 ∧ ¬(s.blk.kind = .uncompressed ∧ s.blk.size % 2 = 1) ∧
      s.host = .construct 5 :: s.host.tail ∧ s.host.drop 1 = .reset :: s.host.drop 2 ∧ s.host.drop 2 = .decompressChunk p1 none :: s.host.drop 3 ∧
      s.host.drop 3 = [.decompressChunkInto p1 0]) ∧
    (let s := { s0.setBlk ⟨.uncompressed, 3, 0, 7, 8, 9⟩ with decodedChunks := 1 };
      refusal? 20 3 s = none ∧ s.blk.remaining = 0 ∧ s.blk.kind = .uncompressed ∧ s.blk.size % 2 = 1) ∧
    (let s := { s0.setBlk ⟨.verbatim, 3, 2, 7, 8, 9⟩ with decodedChunks := 1 };
      refusal? 20 3 s = none ∧ refusal? 20 0 s = none ∧ s.blk.remaining ≠ 0) := by decide +kernel

theorem witness_StepsRunTheChunkCommand : ∃ (s : State) (c : HostCommand) (rest : List HostCommand), s.phase = .idle ∧ s.host = c :: rest ∧
    ((∃ data n, c = .decompressChunkInto data n) ∨ ∃ data n, c = .decompressChunk data n) :=
  ⟨{ s0 with host := [.decompressChunk p1 (some 3)] }, _, _, rfl, rfl, .inr ⟨_, _, rfl⟩⟩

/-- A row of every width the table's rows have. -/
theorem witness_PlacedWordIsFetched : decodeTableWord 1 1 = some .e8Set ∧ decodeTableWord 8 19 = some .ptSameRun ∧
    decodeTableWord 16 1039 = some (.matchSlot97 7) ∧ decodeTableWord 24 0x492000 = some (.alignedLengths 0x492000) ∧
    decodeTableWord 32 0x1000008 = some (.blockVerbatim 8) ∧ decodeTableWord 80 0x2202 = some (.pretreeLengths 0x2202) ∧
    decodeTableWord 96 3 = some (.uncompressedRValues 0 0 3) := ⟨rfl, rfl, rfl, rfl, rfl, rfl, rfl⟩

/-- A core in the middle of a Verbatim block, on its way to the next element. -/
def decoding : State :=
  { (s0.setBr ⟨[0x00, 0xC0], 2, 0, 0, 0⟩).setBlk ⟨.verbatim, 8, 8, 0, 0, 0⟩ with
    hdr := ⟨.verbatim, 8⟩, main := mainP2, cmd := ⟨8, 0, true⟩, phase := .element }

theorem decoding_filled : decoding.main.Filled := ⟨by decide +kernel, by decide +kernel, by decide +kernel⟩

/-- The invariant holds of it; every register of it but the tables is checked by evaluation. -/
theorem decoding_inv : decoding.Inv where
  legal := by decide +kernel
  window := wf_of (by decide +kernel)
  lens := fun k => by cases k <;> decide +kernel
  bits := by decide +kernel
  cursor := by decide +kernel
  block := by decide +kernel
  header := by decide +kernel
  chunks := by decide +kernel
  rest := fun h => absurd ⟨rfl, rfl⟩ h
  output := by decide +kernel
  input := fun _ => by decide +kernel
  filled := fun _ k h => by cases k <;> first | exact decoding_filled | cases h
  settled := fun _ k h _ => by
    cases k
    · exact (by decide +kernel : ∀ sym ∈ mainP2.tab, 1 ≤ lenAt mainP2.lens sym ∧ lenAt mainP2.lens sym ≤ mainP2.maxLength)
    all_goals cases h
  owed := fun _ h => by cases h
  body := fun _ => trivial
  place := fun _ => ⟨by decide +kernel, fun h => by cases h⟩

theorem witness_StepKeepsInvariant : decoding.Inv ∧ (match step decoding with | .next t => t.freeCtr == 0 | _ => false) = true :=
  ⟨decoding_inv, by decide +kernel⟩

theorem witness_InvariantStepsAnswer : ∃ s : State, s.Inv := ⟨decoding, decoding_inv⟩

theorem witness_ResetMeetsInvariant : ((2 ^ 17, 30) ∈ positionSlotsTable) ∧ ((2 ^ 25, 98) ∈ positionSlotsTable) := by decide

theorem literal_completes : Completes (.literal 0x41) (inBlock .verbatim 3 []) (after (.literal 0x41) (inBlock .verbatim 3 [])) :=
  completes_after (by decide +kernel)

theorem witness_ConfigurationIsFixed : ∃ (i : Instr) (s t : State), exec i s = .next t ∧ ∀ w, i ≠ .construct w :=
  ⟨_, _, _, literal_completes.1, fun _ h => by cases h⟩

theorem witness_FaultStatusOnlyFromFaultEntry : ∃ (i : Instr) (s t : State), exec i s = .next t ∧ (∀ w, i ≠ .construct w) ∧ i ≠ .reset :=
  ⟨.e8Set, s0, _, rfl, (fun _ h => by cases h), fun h => by cases h⟩

theorem witness_FaultedUntilReset :
    (let s := takeFault .decodeOverrun s0;
      s.phase = .idle ∧ s.fault.flag = true ∧ (∀ rest, s.host ≠ .reset :: rest) ∧ ∀ w rest, s.host ≠ .construct w :: rest) ∧
    (let s := takeFault .decodeOverrun { s0 with host := [.decompressChunk p1 none] };
      s.phase = .idle ∧ s.fault.flag = true ∧ (∀ rest, s.host ≠ .reset :: rest) ∧ ∀ w rest, s.host ≠ .construct w :: rest) :=
  ⟨⟨rfl, rfl, (fun _ h => by cases h), fun _ _ h => by cases h⟩, ⟨rfl, rfl, (fun _ h => by cases h), fun _ _ h => by cases h⟩⟩

theorem witness_OutputOnlyAtCompletion : ∃ (i : Instr) (s t : State), Completes i s t ∧ i ≠ .chunkTail ∧ (∀ w, i ≠ .construct w) ∧ i ≠ .reset ∧
    (∀ data n, i ≠ .decompressChunkInto data n) ∧ ∀ data n, i ≠ .decompressChunk data n :=
  ⟨_, _, _, literal_completes, (fun h => by cases h), (fun _ h => by cases h), (fun h => by cases h), (fun _ _ h => by cases h),
    fun _ _ h => by cases h⟩

/-- 32 bits of 32, 32 of 31; a peek of 32 of 32, of 16 past the end, of 17 of 16. -/
theorem witness_ReadBitsTakesNextBits : (onBytes [0, 0, 0, 0]).br.stream.length = 32 ∧ (midway [0, 0, 0, 0] 2 0 15).br.stream.length = 31 := by
  decide +kernel

theorem witness_PeekBitsChangesNothing : (onBytes [0, 0, 0, 0]).br.stream.length = 32 ∧ (onBytes []).br.stream.length = 0 ∧
    (onBytes [0, 0]).br.stream.length = 16 := by decide +kernel

theorem witness_ReadBitsSplits : ∃ (s t u : State), 5 + 27 ≤ 32 ∧ Completes (.readBits 5) s t ∧ Completes (.readBits 27) t u :=
  ⟨onBytes abc, _, _, by decide, completes_after (by decide +kernel), completes_after (by decide +kernel)⟩

theorem witness_MultiWordReads : (onBytes [0, 0, 0, 0]).br.stream.length = 32 ∧ (midway [0, 0, 0, 0] 2 0 15).br.stream.length = 31 ∧
    (midway [0, 0, 0, 0] 2 0 8).br.stream.length = 24 ∧ (midway [0, 0, 0, 0] 2 0 7).br.stream.length = 23 := by decide +kernel

/-- The last whole word, and one byte too few for a word, a byte, and `n` bytes. -/
theorem witness_FetchWordAndLoad : (let r := (midway abc 4 0 0).br; r.bytePos + 2 = r.len) ∧ (let r := (midway abc 5 0 0).br; r.len < r.bytePos + 2) := by
  decide +kernel

theorem witness_ByteReadsIgnorePendingBits : (let r := (midway abc 5 0 3).br; r.bytePos + 1 = r.len) ∧
    (let r := (midway abc 6 0 3).br; r.len < r.bytePos + 1) ∧ (let r := (midway abc 2 0 3).br; r.bytePos + 4 = r.len) ∧
    (let r := (midway abc 3 0 3).br; r.len < r.bytePos + 4) ∧ (let r := (midway [0xAB, 0xCD] 4 0 0).br; r.len < r.bytePos) := by decide +kernel

theorem witness_AlignDropsToWordBoundary : (midway abc 2 0xCDAB 13).br.bitsLeft ≠ 0 ∧ (midway abc 2 0xCDAB 0).br.bitsLeft = 0 := by decide +kernel

/-- Lengths that tile, fall short, pass the end, and are all zero (V3.1, V3.5, V3.6, V3.7). -/
theorem witness_BuildTableExactlyWhenTiled : Tiles [1, 2, 3, 3] ∧ maxLen [0, 0, 0] = 0 ∧
    (0 < maxLen [1, 2] ∧ kraft (maxLen [1, 2]) [1, 2] < 2 ^ maxLen [1, 2]) ∧
    0 < maxLen [1, 1, 1] ∧ 2 ^ maxLen [1, 1, 1] < kraft (maxLen [1, 1, 1]) [1, 1, 1] := by
  unfold Tiles
  decide +kernel

theorem lenAt_outside {lens : List Nat} {z : Nat} (h : lens.length ≤ z) : lenAt lens z = 0 := by
  unfold lenAt
  rw [List.getD_eq_getElem?_getD, List.getElem?_eq_none h]
  rfl

theorem codedBefore_outside {lens : List Nat} {z x : Nat} (h : lens.length ≤ z) : codedBefore lens z x = false := by
  simp [codedBefore, lenAt_outside h]

/-- V3.10: symbol 1 has the first code, 0 the next, 3 the last. -/
theorem witness_CanonicalCodes : ∃ (lens : List Nat) (k : TableKind) (t u : Table), t.lens = lens ∧ Tiles lens ∧ t.build k = .ok u ∧
    (lenAt lens 1 ≠ 0 ∧ ∀ z, codedBefore lens z 1 = false) ∧
    (lenAt lens 1 ≠ 0 ∧ lenAt lens 0 ≠ 0 ∧ codedBefore lens 1 0 = true ∧
      ∀ z, ¬(codedBefore lens 1 z = true ∧ lenAt lens z ≠ 0 ∧ codedBefore lens z 0 = true)) ∧
    lenAt lens 3 ≠ 0 ∧ ∀ z, lenAt lens z ≠ 0 → z ≠ 3 → codedBefore lens z 3 = true := by
  refine ⟨[2, 1, 3, 3], .main, ⟨[2, 1, 3, 3], 0, [], false⟩, _, rfl, ?_, rfl, ⟨by decide, fun z => ?_⟩, ⟨by decide, by decide, by decide, fun z h => ?_⟩,
    by decide, fun z h h3 => ?_⟩
  · unfold Tiles; decide
  · by_cases hz : z < 4
    · exact (by decide : ∀ z < 4, codedBefore [2, 1, 3, 3] z 1 = false) z hz
    · exact codedBefore_outside (show 4 ≤ z by omega)
  · by_cases hz : z < 4
    · exact (by decide : ∀ z < 4, ¬(codedBefore [2, 1, 3, 3] 1 z = true ∧ lenAt [2, 1, 3, 3] z ≠ 0 ∧ codedBefore [2, 1, 3, 3] z 0 = true)) z hz h
    · have h2 := h.2.2
      rw [codedBefore_outside (lens := [2, 1, 3, 3]) (z := z) (x := 0) (show 4 ≤ z by omega)] at h2
      cases h2
  · by_cases hz : z < 4
    · exact (by decide : ∀ z < 4, lenAt [2, 1, 3, 3] z ≠ 0 → z ≠ 3 → codedBefore [2, 1, 3, 3] z 3 = true) z hz h h3
    · exact absurd (lenAt_outside (show 4 ≤ z by omega)) h

/-- V3.13: the code `110` of symbol 2, and bits behind it. -/
theorem witness_EveryCodeDecodes :
    (let s := (midway [0x00, 0x5B] 2 0x5B00 13).setTable .main (tableOf .main [1, 2, 3, 3]);
      (s.table .main).build .main = .ok (s.table .main) ∧ (s.table .main).present = true ∧ (s.table .main).maxLength ≤ 16 ∧
        lenAt (s.table .main).lens 2 ≠ 0 ∧ s.br.stream.take (lenAt (s.table .main).lens 2) = codeBits (s.table .main).lens 2) :=
  ⟨rfl, rfl, by decide +kernel, by decide +kernel, by decide +kernel⟩

theorem filled_3_1 : (tableOf .main [1, 2, 3, 3]).Filled := ⟨by decide +kernel, by decide +kernel, by decide +kernel⟩

/-- A present table with enough bits and with one too few (V3.14, V3.15), and an absent one. -/
theorem witness_DecodeSymbolConsumesTrueLength : (tableOf .main [1, 2, 3, 3]).Filled ∧ (tableOf .main [1, 2, 3, 3]).present = true ∧
    (midway [0x03, 0x00] 2 0x0003 2).br.stream.length < lenAt (tableOf .main [1, 2, 3, 3]).lens 2 ∧
    lenAt (tableOf .main [1, 2, 3, 3]).lens 1 ≤ (midway [0x02, 0x00] 2 0x0002 2).br.stream.length ∧ (s0.table .len).present = false :=
  ⟨filled_3_1, by decide +kernel, by decide +kernel, by decide +kernel, by decide +kernel⟩

theorem witness_PretreeDeltaSymbols : (16 ≤ 16 ∧ pretreeCtors[16]? = some .ptDelta16) ∧
    (let s := updating 2 3 [4, 5, 6] s0; s.upd.pos < s.upd.stop ∧ s.upd.stop ≤ s.updLens.length) := by decide +kernel

/-- A run that just reaches the end, of 4 and of 51. -/
theorem witness_PretreeZeroRuns :
    (let s := updating 2 6 (List.replicate 6 7) (onBytes [0x00, 0x00]);
      s.upd.pos < s.upd.stop ∧ s.upd.stop ≤ s.updLens.length ∧ 4 ≤ s.br.stream.length ∧
        s.upd.pos + (bitsValue (s.br.stream.take 4) + 4) = s.upd.stop) ∧
    (let s := updating 0 51 (List.replicate 51 7) (onBytes [0x00, 0xF8]);
      s.upd.pos < s.upd.stop ∧ s.upd.stop ≤ s.updLens.length ∧ 5 ≤ s.br.stream.length ∧
        s.upd.pos + (bitsValue (s.br.stream.take 5) + 20) = s.upd.stop) := by decide +kernel

/-- V4.5 and V4.4: the run of 4 fits in 4 and not in 3; V4.3: `newCode` 17. -/
def sameRun (stop : Nat) (bs : List Byte) : State := (updating 0 stop (List.replicate 8 0) (onBytes bs)).setTable .pre pretree4

theorem witness_PretreeSameRun : ∃ (s t u : State) (same code : Nat), s.upd.pos < s.upd.stop ∧ s.upd.stop ≤ s.updLens.length ∧
    readBits 1 s = .ok same t ∧ decodeSymbol .pre t = .ok code u ∧ code ≤ 16 ∧ s.upd.pos + (same + 4) ≤ s.upd.stop :=
  ⟨sameRun 4 [0x00, 0x00], _, _, 0, 1, by decide +kernel, by decide +kernel, ok_left (by decide +kernel), ok_left (by decide +kernel), by decide,
    by decide +kernel⟩

theorem witness_PretreeRunFaults :
    (let s := updating 2 5 (List.replicate 6 7) (onBytes [0x00, 0x00]);
      s.upd.pos < s.upd.stop ∧ 4 ≤ s.br.stream.length ∧ s.upd.stop < s.upd.pos + (bitsValue (s.br.stream.take 4) + 4)) ∧
    (let s := updating 0 50 (List.replicate 51 7) (onBytes [0x00, 0xF8]);
      s.upd.pos < s.upd.stop ∧ 5 ≤ s.br.stream.length ∧ s.upd.stop < s.upd.pos + (bitsValue (s.br.stream.take 5) + 20)) ∧
    (∃ (s t u : State) (same code : Nat), s.upd.pos < s.upd.stop ∧ readBits 1 s = .ok same t ∧ decodeSymbol .pre t = .ok code u ∧ code ≤ 16 ∧
      s.upd.stop < s.upd.pos + (same + 4)) ∧
    ∃ (s t u : State) (same code : Nat), s.upd.pos < s.upd.stop ∧ readBits 1 s = .ok same t ∧ decodeSymbol .pre t = .ok code u ∧ 16 < code :=
  ⟨by decide +kernel, by decide +kernel,
    ⟨sameRun 3 [0x00, 0x00], _, _, 0, 1, by decide +kernel, ok_left (by decide +kernel), ok_left (by decide +kernel), by decide, by decide +kernel⟩,
    sameRun 8 [0x00, 0x40], _, _, 0, 17, by decide +kernel, ok_left (by decide +kernel), ok_left (by decide +kernel), by decide⟩

/-- Pretree and aligned lengths that tile, fall short, pass the end, and are all zero. -/
theorem witness_LengthFieldsBuildTables : Tiles (pretree4.lens) ∧ pretree4.lens.length = 20 ∧
    (0 < maxLen (List.replicate 19 0 ++ [1]) ∧ kraft 1 (List.replicate 19 0 ++ [1]) < 2 ^ 1) ∧
    (maxLen (List.replicate 20 1) = 1 ∧ 2 ^ 1 < kraft 1 (List.replicate 20 1)) ∧ maxLen (List.replicate 20 0) = 0 ∧
    Tiles [2, 2, 2, 2, 0, 0, 0, 0] ∧ (maxLen [7, 0, 0, 0, 0, 0, 0, 0] = 7 ∧ kraft 7 [7, 0, 0, 0, 0, 0, 0, 0] < 2 ^ 7) ∧
    (maxLen [1, 1, 1, 0, 0, 0, 0, 0] = 1 ∧ 2 ^ 1 < kraft 1 [1, 1, 1, 0, 0, 0, 0, 0]) := by
  unfold Tiles
  decide +kernel

/-- The 80 bits of `pretree4`, one bit too few for a pretree; the 24 bits of P3's aligned lengths, one bit too few. -/
theorem witness_TreesAreReadFromTheStream :
    (80 ≤ (onBytes update41).br.stream.length ∧
      Tiles ((List.range 20).map fun k => bitsValue (((onBytes update41).br.stream.drop (4 * k)).take 4))) ∧
    (midway (List.replicate 10 0) 2 0 15).br.stream.length = 79 ∧
    (24 ≤ (onBytes [0x20, 0x49, 0x00, 0x00]).br.stream.length ∧
      Tiles ((List.range 8).map fun k => bitsValue (((onBytes [0x20, 0x49, 0x00, 0x00]).br.stream.drop (3 * k)).take 3))) ∧
    (midway [0, 0, 0, 0] 2 0 7).br.stream.length = 23 := by
  unfold Tiles
  decide +kernel

/-- V4.5: one symbol, a run of 4, ends the range. -/
def update45 : State := updating 0 0 (List.replicate 8 0) (onBytes [0x00, 0x02, 0x00, 0x00, 0x00, 0x00, 0x00, 0x00, 0x02, 0x22, 0x00, 0xC0])

theorem witness_UpdateRangeRunsItsSymbols : ∃ (s s1 t : State), 0 ≤ 4 ∧ 4 ≤ (s.table (lensKind .lenLen)).lens.length ∧
    Completes .readPretree s s1 ∧ PretreePasses (s1.setUpd ⟨.lenLen, 0, 4⟩) t := by
  refine ⟨update45, after .readPretree update45, _, by decide, by decide +kernel, completes_after (by decide +kernel), .pass ⟨by decide +kernel, 19, _, .ptSameRun,
    ok_left (by decide +kernel), rfl, completes_after (by decide +kernel)⟩ (.done (by decide +kernel))⟩

/-- The lengths 3, 0 to 0, 16. -/
theorem witness_RangeUpdateReachesEveryLengths :
    (let s := updating 0 0 [3, 0, 5] (onBytes (bytesOfBits (updateBits [3, 0] [0, 16])));
      0 ≤ 2 ∧ 2 ≤ (s.table (lensKind .lenLen)).lens.length ∧ (∀ L ∈ (s.table (lensKind .lenLen)).lens, L ≤ 16) ∧ [0, 16].length = 2 - 0 ∧
        (∀ L ∈ [0, 16], L ≤ 16) ∧
        s.br.stream = updateBits (((s.table (lensKind .lenLen)).lens.drop 0).take (2 - 0)) [0, 16] ++ s.br.stream.drop 88) := by decide +kernel

/-! The bits of a small Verbatim body: a core of no position slots (256 main symbols), `MAINLEN` 1 at 97 and 98, no length tree. -/

/-- The run symbols of P2's pretrees: a run of `z + 20` zeros is the code 0 or 1 and `z`. -/
def zeros (code : List Bool) (zs : List Nat) : List Bool := zs.flatMap fun z => code ++ fieldBits 5 z

/-- A pretree with the codes 18 `0`, 16 `10`, 17 `11` (16, 17, 18 have lengths 2, 2, 1). -/
def treeA : List Bool := (List.replicate 16 0 ++ [2, 2, 1, 0]).flatMap (fieldBits 4)

/-- `MAINLEN`: zeros to 96, 1 (symbol 16) at 97 and 98, zeros to 251, then 17 for the last four. -/
def mainUpdate : List Bool :=
  treeA ++ zeros [false] [31, 26] ++ [true, false, true, false] ++ zeros [false] [31, 31, 31] ++ [true, true, false, false, false, false]

/-- The same with only 97 used: four zeros at 98 by symbol 17, then runs of 51, 51, 31 and 21. -/
def mainUpdateBad : List Bool :=
  treeA ++ zeros [false] [31, 26] ++ [true, false] ++ [true, true, false, false, false, false] ++ zeros [false] [31, 31, 11] ++ zeros [false] [1]

/-- The 249 lengths all 0. -/
def lenUpdate : List Bool := treeA ++ zeros [false] [31, 31, 31, 31, 25]

/-- Length symbol 0 alone is used. -/
def lenUpdateBad : List Bool := treeA ++ [true, false] ++ zeros [false] [31, 31, 31, 31, 24]

/-- A core of 256 main symbols about to read these bits. -/
def small (bits : List Bool) : State := { State.initial ⟨2 ^ 17, 0⟩ with br := Reader.load (bytesOfBits bits) }

def goodBody : List Bool := mainUpdate ++ treeA ++ lenUpdate

abbrev lit : Instr := .updateRange .mainLen 0 256
abbrev mat : Instr := .updateRange .mainLen 256 256
abbrev lng : Instr := .updateRange .lenLen 0 249

theorem witness_ReadTablesInOrder_completes : ∃ (s s1 s2 s3 s4 t : State), nMain s1.cfg.positionSlots = 256 ∧ Completes lit s s1 ∧
    Completes mat s1 s2 ∧ Completes (.buildTable .main) s2 s3 ∧ Completes lng s3 s4 ∧ Completes (.buildTable .len) s4 t :=
  ⟨small goodBody, after lit (small goodBody), after mat (after lit (small goodBody)),
    after (.buildTable .main) (after mat (after lit (small goodBody))),
    after lng (after (.buildTable .main) (after mat (after lit (small goodBody)))),
    after (.buildTable .len) (after lng (after (.buildTable .main) (after mat (after lit (small goodBody))))),
    by decide +kernel, completes_after (by decide +kernel), completes_after (by decide +kernel), completes_after (by decide +kernel),
    completes_after (by decide +kernel), completes_after (by decide +kernel)⟩

theorem updateRange_faults {s : State} {t : LenArray} {start stop : Nat} {k : FaultKind}
    (h : start ≤ stop ∧ stop ≤ (s.table (lensKind t)).lens.length) (hr : raisesWith (updateRange t start stop) s k = true) :
    Faults (.updateRange t start stop) s k := by
  refine faults_of ?_ hr
  show execUpdateRange t start stop s = _
  exact if_pos h

theorem buildTable_faults {s : State} {t : TableKind} {k : FaultKind} (h : raisesWith (buildTable t) s k = true) :
    Faults (.buildTable t) s k := faults_of (m := buildTable t) rfl h

/-- A fault in each of the five parts: no bits, none after the first update, one code of length 1, none after the main table, one length symbol. -/
theorem witness_ReadTablesInOrder_faults :
    Faults lit (small []) (.outOfBounds .wordFetch) ∧
    (∃ s s1, Completes lit s s1 ∧ Faults mat s1 (.outOfBounds .wordFetch)) ∧
    (∃ s s1 s2, Completes lit s s1 ∧ Completes mat s1 s2 ∧ Faults (.buildTable .main) s2 (.corruptTable .incomplete)) ∧
    (∃ s s1 s2 s3, Completes lit s s1 ∧ Completes mat s1 s2 ∧ Completes (.buildTable .main) s2 s3 ∧ Faults lng s3 (.outOfBounds .wordFetch)) ∧
    ∃ s s1 s2 s3 s4, Completes lit s s1 ∧ Completes mat s1 s2 ∧ Completes (.buildTable .main) s2 s3 ∧ Completes lng s3 s4 ∧
      Faults (.buildTable .len) s4 (.corruptTable .incomplete) := by
  refine ⟨updateRange_faults (by decide +kernel) (by decide +kernel), ⟨small mainUpdate, _, completes_after (by decide +kernel),
    updateRange_faults (by decide +kernel) (by decide +kernel)⟩, ⟨small (mainUpdateBad ++ treeA), _, _, completes_after (by decide +kernel),
    completes_after (by decide +kernel), buildTable_faults (by decide +kernel)⟩, ⟨small (mainUpdate ++ treeA), _, _, _, completes_after (by decide +kernel),
    completes_after (by decide +kernel), completes_after (by decide +kernel), updateRange_faults (by decide +kernel) (by decide +kernel)⟩,
    small (mainUpdate ++ treeA ++ lenUpdateBad), _, _, _, _, completes_after (by decide +kernel), completes_after (by decide +kernel),
    completes_after (by decide +kernel), completes_after (by decide +kernel), buildTable_faults (by decide +kernel)⟩

/-- P2's main lengths, and a length tree of the symbols 0 and 3. -/
def newMain : List Nat := (((List.replicate 496 0).set 97 2).set 98 2 |>.set 256 2).set 290 2
def newLen : List Nat := ((List.replicate 249 0).set 0 1).set 3 1

/-- The three updates from the reset lengths. -/
def verbatimBits : List Bool :=
  updateBits (s0.main.lens.take 256) (newMain.take 256) ++ updateBits (s0.main.lens.drop 256) (newMain.drop 256) ++ updateBits s0.len.lens newLen

theorem onBytes_stream (bits : List Bool) : ∃ rest, (onBytes (bytesOfBits bits)).br.stream = bits ++ rest := by
  obtain ⟨pad, -, -, h⟩ := Reader.stream_load_bytesOfBits bits []
  rw [List.append_nil] at h
  exact ⟨List.replicate pad false ++ (Reader.load []).stream, by rw [← List.append_assoc]; exact h⟩

/-- Both clauses: the body alone, and behind a header of size 1. -/
theorem witness_VerbatimBlockSetsAnyTrees : s0.main.lens.length = nMain s0.cfg.positionSlots ∧ s0.len.lens.length = 249 ∧
    (∀ L ∈ s0.main.lens, L ≤ 16) ∧ (∀ L ∈ s0.len.lens, L ≤ 16) ∧ newMain.length = nMain s0.cfg.positionSlots ∧ newLen.length = 249 ∧
    (∀ L ∈ newMain, L ≤ 16) ∧ (∀ L ∈ newLen, L ≤ 16) ∧ Tiles newMain ∧ Tiles newLen ∧ maxLen (List.replicate 249 0) = 0 := by
  unfold Tiles
  decide +kernel

theorem witness_VerbatimBlockSetsAnyTrees_streams : (∃ rest, (onBytes (bytesOfBits verbatimBits)).br.stream = verbatimBits ++ rest) ∧
    (1 : BitVec 24) ≠ 0 ∧ ∃ rest, (onBytes (bytesOfBits (fieldBits 27 (headerWord 1 1) ++ verbatimBits))).br.stream =
      fieldBits 27 (headerWord 1 1) ++ (verbatimBits ++ rest) := by
  obtain ⟨rest, h⟩ := onBytes_stream (fieldBits 27 (headerWord 1 1) ++ verbatimBits)
  exact ⟨onBytes_stream _, by decide, rest, by rw [h, List.append_assoc]⟩

/-- A tag of 4 in 27 bits, and the end of the list of invalid tags. -/
theorem witness_TagDispatch : (Instr.blockInvalid7 5, 7) ∈ [(Instr.blockInvalid0 5, 0), (Instr.blockInvalid4 5, 4), (Instr.blockInvalid5 5, 5),
      (Instr.blockInvalid6 5, 6), (Instr.blockInvalid7 5, 7)] ∧
    (let s := midway [0x00, 0x00, 0x00, 0x00] 2 0x0400 11;
      s.br.stream.length = 27 ∧ bitsValue (s.br.stream.take 3) = 4 ∧ bitsValue (s.br.stream.take 3) ∉ [1, 2, 3]) := by decide +kernel

/-- Headers of the three tags, of a size and of size 0, in front of a body. -/
def headed (tag : Nat) (size : BitVec 24) (body : List Bool) : State := small (fieldBits 27 (headerWord tag size) ++ body)

def body3 : List Bool := List.replicate 5 false ++ List.replicate 96 true

theorem readHeader_headed {tag : Nat} {size : BitVec 24} {body : List Bool} (h : okWith readHeader (headed tag size body) (tag, size) = true) :
    ∃ u, readHeader (headed tag size body) = .ok (tag, size) u := ⟨_, ok_left h⟩

theorem witness_ReadBlockHeaderBodyCommit_verbatim : ∀ size : BitVec 24, size = 7 ∨ size = 0 → ∃ s u t,
    readHeader s = .ok (1, size) u ∧ Completes .readTables (u.setHdr ⟨.verbatim, size.toNat⟩) t := by
  rintro size (rfl | rfl)
  · exact ⟨headed 1 7 goodBody, _, _, ok_left (by decide +kernel), completes_after (by decide +kernel)⟩
  · exact ⟨headed 1 0 goodBody, _, _, ok_left (by decide +kernel), completes_after (by decide +kernel)⟩

theorem witness_ReadBlockHeaderBodyCommit_aligned : ∀ size : BitVec 24, size = 7 ∨ size = 0 → ∃ s u v t, readHeader s = .ok (2, size) u ∧
    Completes .readAlignedTree (u.setHdr ⟨.aligned, size.toNat⟩) v ∧ Completes .readTables v t := by
  rintro size (rfl | rfl)
  · exact ⟨headed 2 7 (fieldBits 24 0x492000 ++ goodBody), _, _, _, ok_left (by decide +kernel), completes_after (by decide +kernel),
      completes_after (by decide +kernel)⟩
  · exact ⟨headed 2 0 (fieldBits 24 0x492000 ++ goodBody), _, _, _, ok_left (by decide +kernel), completes_after (by decide +kernel),
      completes_after (by decide +kernel)⟩

theorem witness_ReadBlockHeaderBodyCommit_uncompressed : ∀ size : BitVec 24, size = 7 ∨ size = 0 → ∃ s u t, readHeader s = .ok (3, size) u ∧
    Completes .readUncompressedBody (u.setHdr ⟨.uncompressed, size.toNat⟩) t := by
  rintro size (rfl | rfl)
  · exact ⟨headed 3 7 body3, _, _, ok_left (by decide +kernel), completes_after (by decide +kernel)⟩
  · exact ⟨headed 3 0 body3, _, _, ok_left (by decide +kernel), completes_after (by decide +kernel)⟩

/-- 96 bits after the alignment, and one word too few. -/
theorem witness_UncompressedBodySetsBlockOffsets : (midway block512 4 0x0060 5).br.align.stream.length = 96 ∧
    (midway (block512.take 14) 4 0x0060 5).br.align.stream.length = 80 := by decide +kernel

/-- Length headers 6 and 7, length symbol 248, the length tree present and absent. -/
def lenTree : Table := ⟨newLen, 1, [0, 3], true⟩

theorem witness_MatchLengthRule : lenHdrCtors[(6 : BitVec 3).toNat]? = some .lenHdr6 ∧ lenHdrCtors[(7 : BitVec 3).toNat]? = some .lenHdr7 ∧
    (∃ u, decodeSymbol .len ((onBytes [0x00, 0x80]).setTable .len lenTree) = .ok 3 u) ∧ lenTree.Filled ∧ lenTree.lens.length = 249 ∧
    s0.len.present = false ∧ (248 : BitVec 8).toNat < 249 :=
  ⟨rfl, rfl, ⟨_, ok_left (by decide +kernel)⟩, ⟨by decide +kernel, by decide +kernel, by decide +kernel⟩, by decide +kernel, by decide +kernel,
    by decide +kernel⟩

/-- Slots 3, 97, 7 on the verbatim path; 8 and 97 on the aligned path; slots just outside each domain. -/
def alignTree : Table := ⟨[3, 3, 3, 3, 3, 3, 3, 3], 3, [0, 1, 2, 3, 4, 5, 6, 7], true⟩

theorem witness_CodedOffsets :
    footerBits 3 = (onBytes []).br.stream.length ∧ footerBits 97 ≤ (onBytes [0, 0, 0, 0]).br.stream.length ∧
    footerBits 7 ≤ (onBytes [0, 0]).br.stream.length ∧
    (∃ t u, readBits (footerBits 8 - 3) ((onBytes [0x00, 0xE0]).setTable .align alignTree) = .ok 0 t ∧ decodeSymbol .align t = .ok 7 u) ∧
    (∃ t u, readBits (footerBits 97 - 3) ((onBytes [0xFF, 0xFF, 0xFF, 0xFF]).setTable .align alignTree) = .ok 0x3FFF t ∧
      decodeSymbol .align t = .ok 7 u) ∧
    (¬(3 ≤ 2 ∧ 2 < 98) ∧ ¬(3 ≤ 98 ∧ 98 < 98)) ∧ (¬(8 ≤ 7 ∧ 7 < 98) ∧ ¬(8 ≤ 98 ∧ 98 < 98)) ∧ ¬(3 ≤ 2 ∧ 2 ≤ 7) ∧ ¬(3 ≤ 8 ∧ 8 ≤ 7) :=
  ⟨by decide +kernel, by decide +kernel, by decide +kernel, ⟨_, _, ok_left (by decide +kernel), ok_left (by decide +kernel)⟩,
    ⟨_, _, ok_left (by decide +kernel), ok_left (by decide +kernel)⟩, by decide, by decide, by decide, by decide⟩

/-- The verbatim path in both kinds of block (slots 7 and 8 apart), and the aligned path. -/
theorem witness_OffsetFieldRows :
    (let s := (inBlock .aligned 9 [0, 0]).setElt ⟨7, 2, 0, 0⟩;
      ¬(s.blk.kind = .aligned ∧ 3 ≤ footerBits s.elt.slot) ∧ footerBits s.elt.slot ≤ s.br.stream.length) ∧
    (let s := (inBlock .verbatim 9 [0, 0]).setElt ⟨8, 2, 0, 0⟩;
      ¬(s.blk.kind = .aligned ∧ 3 ≤ footerBits s.elt.slot) ∧ footerBits s.elt.slot ≤ s.br.stream.length) ∧
    (let s := (inBlock .aligned 9 []).setElt ⟨8, 2, 0, 0⟩;
      s.blk.kind = .aligned ∧ 3 ≤ footerBits s.elt.slot ∧ footerBits s.elt.slot - 3 ≤ s.br.stream.length) := by decide +kernel

theorem inBlock_wf (kind : BlockKind) (n : Nat) (bs : List Byte) : (inBlock kind n bs).win.Wf (inBlock kind n bs).cfg.windowSize := wf_of rfl

theorem witness_LiteralElement : ∃ s : State, s.win.Wf s.cfg.windowSize ∧ 1 ≤ s.blk.remaining :=
  ⟨inBlock .verbatim 1 [], inBlock_wf _ _ _, by decide +kernel⟩

/-- Every way to read a length and an offset: a short and a long length; the slots 0, 1, 2; a coded slot on each path. -/
def matching (kind : BlockKind) (bs : List Byte) : State := ((inBlock kind 300 bs).setTable .len lenTree).setTable .align alignTree

theorem witness_LengthReads : LengthReads 6 (matching .verbatim []) 8 (matching .verbatim []) ∧
    ∃ u, LengthReads 7 (matching .verbatim [0x00, 0x80]) 12 u :=
  ⟨.inl ⟨by decide, by decide, rfl⟩, ⟨_, .inr ⟨by decide, 3, ok_left (by decide +kernel), rfl⟩⟩⟩

theorem witness_OffsetReads : (∃ v, OffsetReads 0 (matching .verbatim []) 10 v) ∧ (∃ v, OffsetReads 1 (matching .verbatim []) 20 v) ∧
    (∃ v, OffsetReads 2 (matching .verbatim []) 30 v) ∧ (∃ v, OffsetReads 8 (matching .verbatim [0x00, 0xA0]) 19 v) ∧
    ∃ v, OffsetReads 10 (matching .aligned [0x00, 0xA0]) 40 v :=
  ⟨⟨_, .inl ⟨rfl, by decide +kernel, rfl⟩⟩, ⟨_, .inr (.inl ⟨rfl, by decide +kernel, rfl⟩)⟩, ⟨_, .inr (.inr (.inl ⟨rfl, by decide +kernel, rfl⟩))⟩,
    ⟨_, .inr (.inr (.inr (.inl ⟨by decide, by decide +kernel, 5, _, ok_left (by decide +kernel), by decide +kernel, rfl⟩)))⟩,
    ⟨_, .inr (.inr (.inr (.inr ⟨by decide, by decide +kernel, 1, _, 2, _, ok_left (by decide +kernel), ok_left (by decide +kernel),
      by decide +kernel, rfl⟩)))⟩⟩

/-- Slot 97, the last, with the shortest length: in a Verbatim block, the largest window, offset inside it, two bytes owed. -/
theorem witness_MatchElements : ∃ (s u v : State) (off : Word32), slotCtors[97]? = some .matchSlot97 ∧ 97 < s.cfg.positionSlots ∧
    s.win.Wf s.cfg.windowSize ∧ LengthReads 0 s 2 u ∧ OffsetReads 97 u off v ∧ 1 ≤ off.toNat ∧ off.toNat ≤ s.cfg.windowSize ∧ 2 = s.blk.remaining :=
  ⟨inBlock .verbatim 2 [0, 0, 0, 0], _, _, 8257534, rfl, by decide +kernel, inBlock_wf _ _ _, .inl ⟨by decide, by decide, rfl⟩,
    .inr (.inr (.inr (.inl ⟨by decide, by decide +kernel, 0, _, ok_left (by decide +kernel), by decide +kernel, rfl⟩))), by decide,
    by decide +kernel, by decide +kernel⟩

/-- An absent length tree; offsets 0 and `W + 1`; offset `W` with one byte less owed than the length. -/
theorem witness_MatchFaults : slotCtors[0]? = some .matchSlot0 ∧ 0 < (inBlock .verbatim 1 []).cfg.positionSlots ∧ (7 : BitVec 3).toNat = 7 ∧
    (inBlock .verbatim 1 []).len.present = false ∧
    (∃ s u v, LengthReads 0 s 2 u ∧ OffsetReads 0 u 0 v) ∧
    (∃ s u v off, LengthReads 0 s 2 u ∧ OffsetReads 0 u off v ∧ s.cfg.windowSize + 1 = off.toNat) ∧
    ∃ s u v off, LengthReads 0 s 2 u ∧ OffsetReads 0 u off v ∧ 1 ≤ off.toNat ∧ off.toNat = s.cfg.windowSize ∧ s.blk.remaining + 1 = 2 :=
  ⟨rfl, by decide +kernel, by decide, by decide +kernel,
    ⟨{ inBlock .verbatim 1 [] with rep := ⟨0, 1, 1⟩ }, _, _, .inl ⟨by decide, by decide, rfl⟩, .inl ⟨rfl, rfl, rfl⟩⟩,
    ⟨{ inBlock .verbatim 1 [] with rep := ⟨2 ^ 25 + 1, 1, 1⟩ }, _, _, _, .inl ⟨by decide, by decide, rfl⟩, .inl ⟨rfl, rfl, rfl⟩, by decide +kernel⟩,
    ⟨{ inBlock .verbatim 1 [] with rep := ⟨2 ^ 25, 1, 1⟩ }, _, _, _, .inl ⟨by decide, by decide, rfl⟩, .inl ⟨rfl, rfl, rfl⟩, by decide +kernel,
      by decide +kernel, by decide +kernel⟩⟩

/-- One byte left of three owed, and none left. -/
theorem witness_RawBytesElement : (let s := inBlock .uncompressed 3 [1]; s.win.Wf s.cfg.windowSize ∧ 1 = min s.blk.remaining (s.br.len - s.br.bytePos)) ∧
    (let s := inBlock .uncompressed 3 []; s.win.Wf s.cfg.windowSize ∧ 0 = min s.blk.remaining (s.br.len - s.br.bytePos)) :=
  ⟨⟨inBlock_wf _ _ _, by decide +kernel⟩, ⟨inBlock_wf _ _ _, by decide +kernel⟩⟩

/-- A literal and a match symbol of a coded block; an Uncompressed block with input and without. -/
theorem witness_DecodeElementByKind :
    (∃ u, (inBlock .verbatim 8 [0x00, 0x40]).blk.kind ≠ .uncompressed ∧ 0 < (inBlock .verbatim 8 [0x00, 0x40]).blk.remaining ∧
      decodeSymbol .main ((inBlock .verbatim 8 [0x00, 0x40]).setTable .main mainP2) = .ok 98 u) ∧
    (∃ s u t v n off, decodeSymbol .main s = .ok 290 u ∧ (290 - 256) / 8 < s.cfg.positionSlots ∧ LengthReads (BitVec.ofNat 3 (290 % 8)) u n t ∧
      OffsetReads ((290 - 256) / 8) t off v) ∧
    (let s := inBlock .uncompressed 3 [1]; s.blk.kind = .uncompressed ∧ 0 < s.blk.remaining ∧ 1 = min s.blk.remaining (s.br.len - s.br.bytePos)) ∧
    (let s := inBlock .uncompressed 3 []; s.blk.kind = .uncompressed ∧ 0 < s.blk.remaining ∧ 0 = min s.blk.remaining (s.br.len - s.br.bytePos)) :=
  ⟨⟨_, by decide +kernel, by decide +kernel, ok_left (by decide +kernel)⟩,
    ⟨(inBlock .verbatim 8 [0x00, 0xC0]).setTable .main mainP2, _, _, _, 4, 2, ok_left (by decide +kernel), by decide +kernel,
      .inl ⟨by decide, by decide, rfl⟩,
      .inr (.inr (.inr (.inl ⟨by decide, by decide +kernel, 0, _, ok_left (by decide +kernel), by decide +kernel, rfl⟩)))⟩,
    by decide +kernel, by decide +kernel⟩

/-- The last address of the window, which wraps. -/
theorem witness_PushShiftsHistory : ∃ s : State, s.win.Wf s.cfg.windowSize ∧ s.win.pos = s.cfg.windowSize - 1 :=
  ⟨windowOf [(0, 0x61)] 131071, wf_of (by decide +kernel), by decide +kernel⟩

/-- Offsets 1, `W`, 0 and `W + 1`. -/
theorem witness_CopyFromSelfIsForward : s0.win.Wf s0.cfg.windowSize ∧ 1 ≤ s0.cfg.windowSize ∧ s0.cfg.windowSize ≤ 131072 ∧ s0.cfg.windowSize < 131073 :=
  ⟨wf_of rfl, by decide +kernel, by decide +kernel, by decide +kernel⟩

theorem witness_CopyFromBitstreamPushesBytes :
    (let s := windowOf [] 0 [0x68, 0x69]; s.win.Wf s.cfg.windowSize ∧ s.br.bytePos + 2 = s.br.len ∧ s.br.len < s.br.bytePos + 3) :=
  ⟨wf_of rfl, by decide +kernel, by decide +kernel⟩

/-- A window of one pushed byte holds the linear buffer of that byte. -/
theorem memRead_one (a : Nat) : memRead [(0, (0x61 : Byte))] a = if a = 0 then 0x61 else 0 := by
  by_cases h : a = 0
  · subst h; rfl
  · simp [memRead, h, Ne.symm h]

theorem witness_WindowIsLinearBuffer : ((2 ^ 17, 30) ∈ positionSlotsTable) ∧ ∃ (s : State) (out : List Byte), out ≠ [] ∧ s.win.Wf s.cfg.windowSize ∧
    s.win.Holds s.cfg.windowSize out ∧ 1 ≤ 1 ∧ 131072 ≤ s.cfg.windowSize ∧ 32768 ≤ s.cfg.windowSize := by
  refine ⟨by decide, windowOf [(0, 0x61)] 1, [0x61], by decide, wf_of (by decide +kernel), fun k h1 hk => ?_, by decide, by decide +kernel,
    by decide +kernel⟩
  have hk : k ≤ 131072 := hk
  show memRead [(0, 0x61)] ((1 + 131072 - k) % 131072) = _
  rw [memRead_one]
  unfold linearBack
  by_cases h : k = 1
  · subst h; rfl
  · rw [if_neg (by omega), if_neg (by simp; omega)]

theorem witness_E8Flag : FaultKind.unsupportedE8.code = 6 := rfl

/-- The last count that advances, and the greatest, which stays. -/
theorem witness_ChunkTailDelivers :
    (let s := { s0 with decodedChunks := 2 ^ 32 - 2 }; s.decodedChunks + 1 = 2 ^ 32 - 1 ∧ s.decodedChunks < 2 ^ 32 - 1 ∧
      (after .chunkTail s).decodedChunks = 2 ^ 32 - 1) ∧
    (let s := { s0 with decodedChunks := 2 ^ 32 - 1 }; s.decodedChunks = 2 ^ 32 - 1 ∧
      (after .chunkTail s).decodedChunks = 2 ^ 32 - 1) := by decide +kernel

theorem witness_ConstructSetsResetValues : ((2 ^ 25, 98) ∈ positionSlotsTable) ∧ ∀ slots, (0x8000, slots) ∉ positionSlotsTable :=
  ⟨by decide, by simp [positionSlotsTable]⟩

theorem witness_ResetEqualsReconstruction :
    s0.constructed = true ∧ ((s0.cfg.windowSize, s0.cfg.positionSlots) ∈ positionSlotsTable) ∧ (afterPf 1).constructed = true ∧
    (afterPf 1).cfg = s0.cfg ∧
    (let t := s0.setResult .completed; (after (.decompressChunk p1 (some 3)) t).freeCtr = t.freeCtr) := by decide +kernel

/-- The longest output and input accepted, and one more. -/
theorem witness_RefusalsChangeNothing : ({ s0 with constructed := false } : State).constructed = false ∧
    (s0.constructed = true ∧ ({ s0 with fault := ⟨true, 6, 0⟩ } : State).fault.flag = true) ∧ s0.Live ∧ 32768 < 32769 ∧ 32768 ≤ 32768 ∧
    ∃ data : List Byte, 2 ^ 32 - 3 < data.length :=
  ⟨rfl, ⟨rfl, rfl⟩, ⟨rfl, rfl⟩, by decide, by decide, ⟨List.replicate (2 ^ 32 - 2) 0, by rw [List.length_replicate]; decide⟩⟩

/-- After an odd Uncompressed block, idle: a pad byte is owed. -/
def betweenChunks : State :=
  { s0.setBlk ⟨.uncompressed, 3, 0, 7, 8, 9⟩ with decodedChunks := 1, chunkOffset := 3, hdr := ⟨.uncompressed, 3⟩, result := .bytesWritten 3 }

theorem betweenChunks_inv : betweenChunks.Inv where
  legal := by decide +kernel
  window := wf_of rfl
  lens := fun k => by cases k <;> decide +kernel
  bits := by decide +kernel
  cursor := by decide +kernel
  block := by decide +kernel
  header := by decide +kernel
  chunks := by decide +kernel
  rest := fun h => absurd ⟨rfl, rfl⟩ h
  output := by decide +kernel
  input := fun h => absurd rfl h
  filled := fun _ k h => by cases k <;> cases h
  settled := fun _ k h _ => by cases k <;> cases h
  owed := fun _ h => by cases h
  body := fun _ => trivial
  place := fun _ h => by cases h

theorem witness_StoredChunkDecodes : betweenChunks.Inv ∧ betweenChunks.Live ∧ betweenChunks.phase = .idle ∧ betweenChunks.blk.remaining = 0 ∧
    [(0xFF : Byte)].length = (if betweenChunks.padOwed then 1 else 0) ∧ 1 ≤ [(0x68 : Byte)].length ∧ (List.replicate 32768 (0 : Byte)).length ≤ 32768 :=
  ⟨betweenChunks_inv, ⟨rfl, rfl⟩, rfl, rfl, rfl, by decide, by rw [List.length_replicate]⟩

theorem witness_FaultEntryForgets : ∃ s t : State, s ≠ t ∧ s.cfg = t.cfg ∧ s.constructed = t.constructed ∧ s.host = t.host ∧ s.freeCtr = t.freeCtr :=
  ⟨s0, s0.setBlk ⟨.verbatim, 8, 8, 0, 0, 0⟩, (by decide +kernel), rfl, rfl, rfl, rfl⟩

end Sys2Proof.Tests
end

section
/-! Progress: an operation that does not get stuck ends with a value or a fault (R12), and from every state of the invariant neither
reading the next instruction, nor its meaning, nor the move to the next place gets stuck. -/

namespace Sys2Proof.Machine

/-! ### Operations that do not get stuck -/

section
variable {α β : Type}

/-- The operation raises a fault of the hardware, or completes with a value and a state that meet `P`: it does not get stuck (R12). -/
def Op.Ends (m : Op α) (P : α → State → Prop) (s : State) : Prop := (∃ a t, m s = .ok a t ∧ P a t) ∨ ∃ k, m s = .raise k

/-- The operation does not get stuck. -/
abbrev Op.Answers (m : Op α) (s : State) : Prop := m.Ends (fun _ _ => True) s

/-- The instruction's meaning is a next state. -/
def Runs (i : Instr) (s : State) : Prop := ∃ t, exec i s = .next t

variable {m : Op α} {f : α → Op β} {P : α → State → Prop} {Q : β → State → Prop} {s t : State}

theorem Op.Ends.of_ok {a : α} (h : m s = .ok a t) (hP : P a t) : m.Ends P s := .inl ⟨a, t, h, hP⟩

theorem Op.Ends.of_raise {k : FaultKind} (h : m s = .raise k) : m.Ends P s := .inr ⟨k, h⟩

theorem Op.Ends.congr {n : Op α} (h : n.Ends P s) (he : m s = n s) : m.Ends P s := by
  rw [Op.Ends, he]
  exact h

theorem Op.Ends.bind (h : m.Ends P s) (hf : ∀ a t, P a t → (f a).Ends Q t) : (m.bind f).Ends Q s := by
  rcases h with ⟨a, t, hm, hP⟩ | ⟨k, hm⟩
  · rw [Op.Ends, Op.bind_of_ok hm]
    exact hf a t hP
  · exact .of_raise (Op.bind_of_raise hm)

theorem Op.Ends.andThen {n : Op β} (h : m.Ends P s) (hn : ∀ a t, P a t → n.Ends Q t) : (m.andThen n).Ends Q s := h.bind hn

theorem Op.answers_raise (k : FaultKind) (s : State) : (Op.raise k : Op α).Answers s := .of_raise rfl

theorem Op.answers_modify (g : State → State) (s : State) : (Op.modify g).Answers s := .of_ok rfl trivial

theorem Op.Answers.run_next {n : Op Unit} (h : n.Answers s) : ∃ t, n.run s = .next t := by
  rcases h with ⟨_, t, hm, -⟩ | ⟨k, hm⟩
  · exact ⟨t, Op.run_of_ok hm⟩
  · exact ⟨takeFault k s, Op.run_of_raise hm⟩

/-- An instruction whose meaning is an operation run to its end answers where the operation does. -/
theorem Op.Answers.runs {n : Op Unit} {i : Instr} (h : n.Answers s) (he : exec i s = n.run s) : Runs i s := by
  rw [Runs, he]
  exact h.run_next

end

section
variable {s : State}

/-! ### Reading fields -/

theorem readBits_ends (n : Nat) (s : State) : (readBits n).Ends (fun v t => v < 2 ^ n ∧ ∃ q, t = s.setBr q) s := by
  rcases readBits_cases n s with ⟨-, q, hq, -⟩ | ⟨-, he⟩
  · exact .of_ok hq ⟨readBits_ok_lt hq, q, rfl⟩
  · exact .of_raise he

theorem readHeader_ends (s : State) : readHeader.Ends (fun h _ => h.1 < 8) s :=
  (readBits_ends 3 s).bind fun _ t htag =>
    have hsize : readU24be.Answers t := (readBits_ends 16 t).bind fun _ u _ => (readBits_ends 8 u).bind fun _ _ _ => .of_ok rfl trivial
    hsize.bind fun _ _ _ => .of_ok rfl htag.1

theorem readOffsetValues_answers (s : State) : readOffsetValues.Answers s := by
  rcases Nat.lt_or_ge s.br.stream.length 96 with h | h
  · exact .of_raise (readOffsetValues_of_lt h)
  · obtain ⟨q, hq, -⟩ := readOffsetValues_of_le h
    exact .of_ok hq trivial

theorem readAlignedField_answers (s : State) : readAlignedField.Answers s := by
  rcases Nat.lt_or_ge s.br.stream.length 24 with h | h
  · exact .of_raise (readAlignedField_of_lt h)
  · obtain ⟨q, hq, -⟩ := readAlignedField_of_le h
    exact .of_ok hq trivial

theorem readPretreeField_answers (s : State) : readPretreeField.Answers s := by
  rcases Nat.lt_or_ge s.br.stream.length 80 with h | h
  · exact .of_raise (readPretreeField_of_lt h)
  · obtain ⟨q, hq, -⟩ := readPretreeField_of_le h
    exact .of_ok hq trivial

theorem skipPadByte_answers (s : State) : skipPadByte.Answers s := by
  unfold skipPadByte readByte
  cases h : s.br.readByte with
  | ok p => exact .of_ok (Op.bind_of_ok (onReader_of_ok h)) trivial
  | error k => exact .of_raise (Op.bind_of_raise (onReader_of_error h))

/-! ### Tables -/

/-- Every present table is filled (R37): no decode looks up an index its table lacks. -/
def State.TablesFilled (s : State) : Prop := ∀ k, (s.table k).present = true → (s.table k).Filled

theorem State.TablesFilled.congr {t : State} (h : s.TablesFilled) (ht : ∀ k, t.table k = s.table k) : t.TablesFilled := fun k => by
  rw [ht k]
  exact h k

theorem decodeSymbol_ends (k : TableKind) (h : s.TablesFilled) :
    (decodeSymbol k).Ends (fun sym t => sym < (s.table k).lens.length ∧ ∃ q, t = s.setBr q) s := by
  cases hp : (s.table k).present with
  | false => exact .of_raise (decodeSymbol_absent hp)
  | true =>
    obtain ⟨sym, -, hlt, ⟨-, q, hq, -⟩ | ⟨-, he⟩⟩ := decodeSymbol_cases hp (h k hp)
    · exact .of_ok hq ⟨hlt, q, rfl⟩
    · exact .of_raise he

theorem buildTable_answers (k : TableKind) (s : State) : (buildTable k).Answers s := by
  rcases buildTable_cases k s with ⟨v, -, h⟩ | ⟨e, -, h⟩
  · exact .of_ok h trivial
  · exact .of_raise h

theorem setPretree_answers (l : BitVec 80) (s : State) : (setPretree l).Answers s :=
  (Op.answers_modify _ s).andThen fun _ t _ => buildTable_answers .pre t

theorem setAlignedTree_answers (l : BitVec 24) (s : State) : (setAlignedTree l).Answers s :=
  (Op.answers_modify _ s).andThen fun _ t _ => buildTable_answers .align t

/-! ### Pretree symbols (R182 to R186) -/

theorem writeRunChecked_answers (value run : Nat) (s : State) : (writeRunChecked value run).Answers s := by
  rcases writeRunChecked_cases value run s with ⟨-, h⟩ | ⟨-, h⟩
  · exact .of_ok h trivial
  · exact .of_raise h

theorem ptZeroRun_answers (bits base : Nat) (h : s.upd.pos < s.upd.stop) : (ptZeroRun bits base).Answers s := by
  rcases ptZeroRun_cases bits base h with ⟨q, -, -, -, hq⟩ | ⟨-, -, he⟩ | ⟨-, he⟩
  · exact .of_ok hq trivial
  · exact .of_raise he
  · exact .of_raise he

theorem readNewCode_answers (h : s.TablesFilled) : readNewCode.Answers s :=
  (decodeSymbol_ends .pre h).bind fun code t _ => by
    split
    · exact Op.answers_raise _ t
    · exact .of_ok rfl trivial

theorem ptSameRun_answers (hf : s.TablesFilled) (h : s.upd.pos < s.upd.stop) : ptSameRun.Answers s := by
  refine Op.Ends.congr ((readBits_ends 1 s).bind ?_) (whileUpdating_ok h)
  rintro same t ⟨-, q, rfl⟩
  exact (readNewCode_answers (hf.congr fun k => State.setBr_table s k q)).bind fun code u _ => writeRunChecked_answers (u.deltaHere code) (same + 4) u

/-- A pretree symbol of an update in progress does not get stuck: `i < end`, and the pretree that symbol 19 reads again is filled. -/
theorem pretreeSymbol_answers (hf : s.TablesFilled) (h : s.upd.pos < s.upd.stop) (sym : Nat) : (pretreeSymbol sym).Answers s := by
  unfold pretreeSymbol
  split_ifs
  · exact .of_ok (ptDelta_ok h) trivial
  · exact ptZeroRun_answers 4 4 h
  · exact ptZeroRun_answers 5 20 h
  · exact ptSameRun_answers hf h
  · exact Op.answers_raise _ s

/-! ### Elements (R207 to R219, R268, R269) -/

theorem applyElement_answers (e : Element) (s : State) : (applyElement e).Answers s := by
  cases e with
  | literal b => exact .of_ok rfl trivial
  | matched offset length =>
    rcases copyFromSelf_cases (offset := offset.toNat) (length := length) (s := s) with ⟨-, -, h⟩ | ⟨-, h⟩ | ⟨-, h⟩
    · exact .of_ok h trivial
    · exact .of_raise h
    · exact .of_raise h
  | bulkRead n =>
    by_cases hn : s.br.bytePos + n ≤ s.br.len
    · exact .of_ok (copyFromBitstream_ok hn) trivial
    · exact .of_raise (Op.bind_of_raise (readBytes_raise (by omega)))

theorem takeElement_answers (e : Element) (s : State) : (takeElement e).Answers s :=
  (applyElement_answers e s).andThen fun _ t _ => by
    rcases account_cases e.length t with ⟨-, h⟩ | ⟨-, h⟩
    · exact .of_ok h trivial
    · exact .of_raise h

theorem decodeUncompressed_answers (s : State) : decodeUncompressed.Answers s :=
  (Op.answers_modify _ s).andThen fun _ t _ => by
    by_cases h : min t.blk.remaining t.br.remaining = 0
    · exact .of_raise (if_pos h)
    · exact .of_ok (if_neg h) trivial

theorem lengthHeader_answers (hf : s.TablesFilled) (lh : Nat) : (lengthHeader lh).Answers s := by
  unfold lengthHeader
  split
  · exact (decodeSymbol_ends .len hf).bind fun _ t _ => Op.answers_modify _ t
  · exact Op.answers_modify _ s

/-- A length reads the stream and leaves the tables. -/
theorem matchLength_ends (hf : s.TablesFilled) (lh : Nat) : (matchLength lh).Ends (fun _ t => t.TablesFilled) s := by
  rcases lengthHeader_answers hf lh with ⟨_, t, h, -⟩ | ⟨k, h⟩
  · obtain ⟨r, n, rfl, -⟩ := lengthHeader_ok h
    exact .of_ok (Op.bind_of_ok h) (hf.congr fun k => by simp)
  · exact .of_raise (Op.bind_of_raise h)

theorem footerField_ends (hf : s.TablesFilled) : footerField.Ends (fun _ t => t.TablesFilled) s := by
  have hanswers : footerField.Answers s :=
    have hraw : readRawOffsetBits.Answers s := (readBits_ends (s.rawOffsetBits s.elt.slot) s).bind fun _ t _ => Op.answers_modify _ t
    hraw.andThen fun _ t _ => by
      by_cases h : t.alignedPath t.elt.slot
      · exact .of_ok (if_pos h) trivial
      · exact .of_ok ((if_neg h).trans (newOffset_eq _ t)) trivial
  rcases hanswers with ⟨_, t, h, -⟩ | ⟨k, h⟩
  · obtain ⟨r, c, e, rfl, -⟩ := footerField_ok h
    exact .of_ok h (hf.congr fun k => by simp)
  · exact .of_raise h

theorem matchOffsetCoded_answers (hf : s.TablesFilled) (slot : Nat) : (matchOffsetCoded slot).Answers s := by
  have hslot : (setMatchSlot slot).Ends (fun _ t => t.TablesFilled) s := .of_ok rfl (hf.congr fun k => by simp)
  refine hslot.andThen fun _ t ht => (footerField_ends ht).andThen fun _ u hu => ?_
  by_cases h : u.alignedPath slot
  · have haligned : ((decodeSymbol .align).bind alignedSymbol).Answers u :=
      (decodeSymbol_ends .align hu).bind fun _ v _ => .of_ok (newOffset_eq _ v) trivial
    exact haligned.congr (if_pos h)
  · exact .of_ok (if_neg h) trivial

theorem matchOffset_answers (hf : s.TablesFilled) : ∀ slot : Nat, (matchOffset slot).Answers s
  | 0 => .of_ok (matchOffset0_eq s) trivial
  | 1 => .of_ok (matchOffset1_eq s) trivial
  | 2 => .of_ok (matchOffset2_eq s) trivial
  | slot + 3 => matchOffsetCoded_answers hf (slot + 3)

/-- A match of a slot this core has does not get stuck (R104): its length tree and its aligned tree are filled. -/
theorem matchSlot_answers (hf : s.TablesFilled) {slot : Nat} (hs : slot < s.cfg.positionSlots) (h98 : slot < 98) (lh : BitVec 3) :
    (matchSlot slot lh).Answers s := by
  have hfields : ((matchLength lh.toNat).bind fun length =>
      (matchOffset slot).andThen (Op.get fun t => Element.matched t.elt.offset length)).Answers s :=
    (matchLength_ends hf lh.toNat).bind fun _ t ht => (matchOffset_answers ht slot).andThen fun _ _ _ => .of_ok rfl trivial
  have helement : (matchElement slot lh.toNat).Answers s := hfields.congr (if_pos ⟨hs, h98⟩)
  exact helement.bind fun e t _ => takeElement_answers e t

/-! ### The move to the next place -/

theorem goTo_answers (p : Phase) (s : State) : (goTo p).Answers s := Op.answers_modify _ s

theorem endBody_answers (s : State) : endBody.Answers s := by
  have hcommit : commitBlock.Answers s := by
    by_cases h : s.hdr.size = 0
    · exact .of_raise (if_pos h)
    · exact .of_ok (if_neg h) trivial
  exact hcommit.andThen fun _ t _ => goTo_answers .element t

theorem afterSymbol_answers (stage : UpdateStage) (s : State) : (afterSymbol stage).Answers s := by
  by_cases h : s.upd.pos < s.upd.stop
  · exact (goTo_answers (.pretreeSym stage) s).congr (if_pos h)
  · match stage with
    | .literals => exact (goTo_answers (.pretreeLens .matches) s).congr (if_neg h)
    | .matches =>
      have hmain : ((buildTable .main).andThen (goTo (.pretreeLens .lengths))).Answers s :=
        (buildTable_answers .main s).andThen fun _ t _ => goTo_answers _ t
      exact hmain.congr (if_neg h)
    | .lengths =>
      have hlen : ((buildTable .len).andThen endBody).Answers s := (buildTable_answers .len s).andThen fun _ t _ => endBody_answers t
      exact hlen.congr (if_neg h)

/-- The move to the next place never gets stuck, whatever the instruction before it left. -/
theorem advance_answers (s : State) : advance.Answers s := by
  unfold Op.Answers Op.Ends advance
  cases s.phase with
  | idle => exact .inl ⟨(), s, rfl, trivial⟩
  | rValues => exact endBody_answers s
  | pretreeLens stage => exact (Op.answers_modify _ s).andThen fun _ t _ => afterSymbol_answers stage t
  | pretreeSym stage => exact afterSymbol_answers stage s
  | e8 | padByte | header | alignPad | alignedLens | element | tail => exact goTo_answers _ s

/-! ### Which operation a decoded instruction runs -/

/-- The block header rows, in tag order (R94). -/
theorem exec_headerInstr {tag : Nat} (h : tag < 8) (size : BitVec 24) (s : State) :
    exec (headerInstr tag size) s = (blockHeader tag size).run s := by
  interval_cases tag <;> rfl

/-- The pretree rows, in symbol order (R100). -/
theorem exec_pretreeCtors {sym : Nat} {i : Instr} (h : pretreeCtors[sym]? = some i) (s : State) :
    exec i s = (pretreeSymbol sym).run s := by
  have hall : pretreeCtors.map exec = (List.range 20).map fun sym => (pretreeSymbol sym).run := rfl
  have hsym : sym < 20 := (List.getElem?_eq_some_iff.1 h).1
  have hget := congrArg (·[sym]?) hall
  simp only [List.getElem?_map, h, List.getElem?_range hsym, Option.map_some, Option.some.injEq] at hget
  exact congrFun hget s

/-- The match rows, in slot order (R102, R104). -/
theorem exec_slotCtors {slot : Nat} {ctor : BitVec 3 → Instr} (h : slotCtors[slot]? = some ctor) (lh : BitVec 3) (s : State) :
    exec (ctor lh) s = (matchSlot slot lh).run s := by
  have hall : slotCtors.map (fun ctor => exec (ctor lh)) = (List.range 98).map fun slot => (matchSlot slot lh).run := rfl
  have hslot : slot < 98 := (List.getElem?_eq_some_iff.1 h).1
  have hget := congrArg (·[slot]?) hall
  simp only [List.getElem?_map, h, List.getElem?_range hslot, Option.map_some, Option.some.injEq] at hget
  exact congrFun hget s

/-! ### Which instruction a pattern is -/

theorem decode_chunkPrefix {w : Nat} (hw : w < 2 ^ Format.chunkPrefix.width) : decode .chunkPrefix w = .ok (if w = 0 then .e8Clear else .e8Set) := by
  rw [decode, if_neg (Nat.not_le.2 hw)]

theorem decode_blockHeader {w : Nat} (hw : w < 2 ^ Format.blockHeader.width) :
    decode .blockHeader w = .ok (headerInstr (w / 2 ^ 24) (BitVec.ofNat 24 w)) := by
  rw [decode, if_neg (Nat.not_le.2 hw)]

theorem decode_rValues {w : Nat} (hw : w < 2 ^ Format.rValues.width) :
    decode .rValues w = .ok (.uncompressedRValues (BitVec.ofNat 32 (w / 2 ^ 64)) (BitVec.ofNat 32 (w / 2 ^ 32)) (BitVec.ofNat 32 w)) := by
  rw [decode, if_neg (Nat.not_le.2 hw)]

theorem decode_alignedLengths (l : BitVec 24) : decode .alignedLengths l.toNat = .ok (.alignedLengths l) := by
  have hw : l.toNat < 2 ^ Format.alignedLengths.width := l.isLt
  rw [decode, if_neg (Nat.not_le.2 hw)]
  simp only [BitVec.ofNat_toNat, BitVec.setWidth_eq]

theorem decode_pretreeLengths (l : BitVec 80) : decode .pretreeLengths l.toNat = .ok (.pretreeLengths l) := by
  have hw : l.toNat < 2 ^ Format.pretreeLengths.width := l.isLt
  rw [decode, if_neg (Nat.not_le.2 hw)]
  simp only [BitVec.ofNat_toNat, BitVec.setWidth_eq]

theorem decode_pretreeSymbol {sym : Nat} {i : Instr} (h : pretreeCtors[sym]? = some i) : decode .pretreeSymbol sym = .ok i := by
  have hsym : sym < 20 := (List.getElem?_eq_some_iff.1 h).1
  have hw : sym < 2 ^ Format.pretreeSymbol.width := by rw [Format.width]; omega
  simp only [decode, if_neg (Nat.not_le.2 hw), h]

theorem decode_literal {sym : Nat} (h : sym < 256) : decode .mainSymbol sym = .ok (.literal (BitVec.ofNat 8 sym)) := by
  have hw : sym < 2 ^ Format.mainSymbol.width := by rw [Format.width]; omega
  simp only [decode, if_neg (Nat.not_le.2 hw), mainInstr, if_pos h]

theorem decode_match {sym : Nat} {ctor : BitVec 3 → Instr} (h256 : 256 ≤ sym) (h : slotCtors[(sym - 256) / 8]? = some ctor) :
    decode .mainSymbol sym = .ok (ctor (BitVec.ofNat 3 sym)) := by
  have hslot : (sym - 256) / 8 < 98 := (List.getElem?_eq_some_iff.1 h).1
  have hw : sym < 2 ^ Format.mainSymbol.width := by rw [Format.width]; omega
  simp only [decode, if_neg (Nat.not_le.2 hw), mainInstr, if_neg (Nat.not_lt.2 h256), h]

/-! ### Reading and running the next instruction -/

/-- Reading a pattern that decodes, for an instruction that runs there. -/
theorem decoded_ends {f : Format} {w : Nat} {i : Instr} (h : decode f w = .ok i) (hi : Runs i s) : (decoded f w).Ends Runs s := by
  rw [decoded, h]
  exact .of_ok rfl hi

theorem decodedE8_ends {w : Nat} (hw : w < 2) : (decoded .chunkPrefix w).Ends Runs s := by
  have hrun : Runs (if w = 0 then .e8Clear else .e8Set) s := by
    split
    · exact ⟨s, rfl⟩
    · exact ⟨takeFault .unsupportedE8 s, rfl⟩
  exact decoded_ends (decode_chunkPrefix hw) hrun

theorem blockHeader_answers (tag : Nat) (size : BitVec 24) (s : State) : (blockHeader tag size).Answers s := by
  unfold blockHeader
  split
  · exact Op.answers_modify _ s
  · exact Op.answers_raise _ s

theorem decodedHeader_ends {tag : Nat} (htag : tag < 8) (size : BitVec 24) : (decoded .blockHeader (headerWord tag size)).Ends Runs s := by
  have hw : headerWord tag size < 2 ^ 27 := Laws.headerWord_lt size (by omega)
  have htag' : headerWord tag size / 2 ^ 24 < 8 := by omega
  exact decoded_ends (decode_blockHeader hw) ((blockHeader_answers _ _ s).runs (exec_headerInstr htag' _ s))

theorem decodedPretree_ends (hf : s.TablesFilled) (h : s.upd.pos < s.upd.stop) {sym : Nat} (hsym : sym < nPre) :
    (decodedPretree sym).Ends Runs s := by
  have hi : pretreeCtors[sym]? = some pretreeCtors[sym] := List.getElem?_eq_getElem hsym
  have hdec : (decoded .pretreeSymbol sym).Ends Runs s :=
    decoded_ends (decode_pretreeSymbol hi) ((pretreeSymbol_answers hf h sym).runs (exec_pretreeCtors hi s))
  rw [decodedPretree, if_neg (Nat.not_lt.2 (Nat.le_of_lt_succ hsym))]
  exact hdec

/-- A main symbol of this core is a literal or a match of one of its slots (R102, R104). -/
theorem decodedMain_ends (hf : s.TablesFilled) (h98 : s.cfg.positionSlots ≤ 98) {sym : Nat} (hsym : sym < nMain s.cfg.positionSlots) :
    (decoded .mainSymbol sym).Ends Runs s := by
  rw [nMain] at hsym
  by_cases h : sym < 256
  · exact decoded_ends (decode_literal h) ((takeElement_answers _ s).runs rfl)
  · have hslot : (sym - 256) / 8 < s.cfg.positionSlots := by omega
    have hlt : (sym - 256) / 8 < slotCtors.length := lt_of_lt_of_le hslot h98
    have hctor : slotCtors[(sym - 256) / 8]? = some slotCtors[(sym - 256) / 8] := List.getElem?_eq_getElem hlt
    exact decoded_ends (decode_match (Nat.not_lt.1 h) hctor)
      ((matchSlot_answers hf hslot hlt (BitVec.ofNat 3 sym)).runs (exec_slotCtors hctor _ s))

/-! ### The facts of the invariant that progress rests on -/

theorem State.Inv.live (h : s.Inv) (hp : s.phase ≠ .idle) : s.Live := by
  by_contra hl
  exact hp (h.rest hl)

theorem State.Inv.positionSlots_le (h : s.Inv) : s.cfg.positionSlots ≤ 98 := by
  have hall : ∀ entry ∈ positionSlotsTable, entry.2 ≤ 98 := by decide
  exact hall _ h.legal

theorem State.Inv.tablesFilled (h : s.Inv) (hp : s.phase ≠ .idle) : s.TablesFilled := h.filled (h.live hp)

/-- An update is in progress wherever a pretree symbol is read (R181). -/
theorem State.Inv.updating (h : s.Inv) {stage : UpdateStage} (hp : s.phase = .pretreeSym stage) : s.upd.pos < s.upd.stop := by
  have hplace := h.place (h.live (by simp [hp]))
  rw [State.PhaseFits, hp] at hplace
  exact hplace.2.2

theorem fetchPretree_ends (h : s.Inv) {stage : UpdateStage} (hp : s.phase = .pretreeSym stage) :
    ((decodeSymbol .pre).bind decodedPretree).Ends Runs s := by
  have hf : s.TablesFilled := h.tablesFilled (by simp [hp])
  refine (decodeSymbol_ends .pre hf).bind ?_
  rintro sym t ⟨hsym, q, rfl⟩
  rw [(h.lens .pre).1] at hsym
  exact decodedPretree_ends (hf.congr fun k => State.setBr_table s k q) (h.updating hp) hsym

theorem fetchMain_ends (h : s.Inv) (hp : s.phase = .element) : ((decodeSymbol .main).bind (decoded .mainSymbol)).Ends Runs s := by
  have hf : s.TablesFilled := h.tablesFilled (by simp [hp])
  refine (decodeSymbol_ends .main hf).bind ?_
  rintro sym t ⟨hsym, q, rfl⟩
  rw [(h.lens .main).1] at hsym
  exact decodedMain_ends (hf.congr fun k => State.setBr_table s k q) h.positionSlots_le hsym

/-- Wherever a command is, the next instruction is read or the read faults, and what is read has a next state. -/
theorem fetch_ends (h : s.Inv) (hp : s.phase ≠ .idle) : fetch.Ends Runs s := by
  unfold Op.Ends fetch
  cases hphase : s.phase with
  | idle => exact absurd hphase hp
  | e8 => exact (readBits_ends 1 s).bind fun w t hw => decodedE8_ends hw.1
  | padByte => exact .inl ⟨.padByte, s, rfl, (skipPadByte_answers s).runs rfl⟩
  | header => exact (readHeader_ends s).bind fun w t hw => decodedHeader_ends hw w.2
  | alignPad => exact .inl ⟨.alignPadding, s, rfl, _, rfl⟩
  | rValues =>
    exact (readOffsetValues_answers s).bind fun v t _ =>
      decoded_ends (decode_rValues (Laws.rValuesWord_lt v.1 v.2.1 v.2.2)) ⟨_, rfl⟩
  | alignedLens =>
    exact (readAlignedField_answers s).bind fun l t _ =>
      decoded_ends (decode_alignedLengths l) ((setAlignedTree_answers l t).runs rfl)
  | pretreeLens stage =>
    exact (readPretreeField_answers s).bind fun l t _ =>
      decoded_ends (decode_pretreeLengths l) ((setPretree_answers l t).runs rfl)
  | pretreeSym stage => exact fetchPretree_ends h hphase
  | element =>
    by_cases hk : s.blk.kind = .uncompressed
    · have hraw : (decodeUncompressed.bind takeElement).Answers s :=
        (decodeUncompressed_answers s).bind fun e t _ => takeElement_answers e t
      exact .inl ⟨.rawBytes, s, if_pos hk, hraw.runs rfl⟩
    · simp only [if_neg hk]
      exact fetchMain_ends h hphase
  | tail => exact .inl ⟨.chunkTail, s, rfl, _, rfl⟩

/-! ### One step -/

/-- The idle core always answers: it waits, or takes a command (R260). -/
theorem issue_next (s : State) : ∃ t, issue s = .next t := by
  unfold issue
  split
  · exact ⟨s, rfl⟩
  · unfold execConstruct
    split <;> exact ⟨_, rfl⟩
  · unfold execReset
    split <;> exact ⟨_, rfl⟩
  · exact ⟨_, rfl⟩
  · exact ⟨_, rfl⟩

theorem step_of_fetch {i : Instr} {t u : State} (hp : s.phase ≠ .idle) (hf : fetch s = .ok i t) (hi : exec i t = .next u) :
    step s = advance.run u := by
  rw [step, if_neg hp, hf]
  simp only [stepFetched, hi]

theorem step_of_fetch_raise {k : FaultKind} (hp : s.phase ≠ .idle) (hf : fetch s = .raise k) : step s = .next (takeFault k s) := by
  rw [step, if_neg hp, hf]
  rfl

end

/-- Settles O12: the idle core always answers; a running command's fetch answers by the invariant (tables filled, an update in
progress, symbols inside their tables) with an instruction that has a next state, and the move after it never gets stuck. -/
theorem invariantStepsAnswer : Obligations.InvariantStepsAnswer := by
  intro s h
  by_cases hp : s.phase = .idle
  · rw [step, if_pos hp]
    exact issue_next s
  · rcases fetch_ends h hp with ⟨i, t, hf, u, hi⟩ | ⟨k, hf⟩
    · rw [step_of_fetch hp hf hi]
      exact (advance_answers u).run_next
    · exact ⟨takeFault k s, step_of_fetch_raise hp hf⟩

end Sys2Proof.Machine
end

section
/-! The window is a linear buffer (R245, R247). -/

namespace Sys2Proof.Machine

/-- Settles O53: each operation's own law on a window that holds a linear buffer. -/
theorem windowIsLinearBuffer : Obligations.WindowIsLinearBuffer := by
  refine ⟨fun entry _ k _ _ => ?_, fun s out hw hout => ⟨fun b => ?_, fun offset n h1 ho => ?_, fun n hn hsize => ?_⟩⟩
  · have hempty : linearBack [] k = 0 := by simp [linearBack]
    exact hempty.symm
  · exact ⟨s.setWin (s.win.push s.cfg.windowSize b), rfl, hw.push, hout.push hw⟩
  · exact ⟨_, Op.run_of_ok (copyFromSelf_ok h1 ho), hw.copy offset, hout.copy h1 ho hw⟩
  · have hview : exec (.pastView n) s = .next (s.setRet (.bytes (s.win.view s.cfg.windowSize n))) := if_pos hn
    rw [hview, hout.view hsize]

end Sys2Proof.Machine
end

section
/-! The states that meet the invariant without a command running: the reset state of every legal window size (R49), and the core
that a fault or a failed `construct` leaves, every register free in its range (R50, R313). -/

namespace Sys2Proof.Machine

/-! ### Window sizes -/

/-- `POSITION_SLOTS` finds exactly the entries of the table: no window size stands twice (R109). -/
theorem positionSlots?_eq_some {w slots : Nat} : positionSlots? w = some slots ↔ (w, slots) ∈ positionSlotsTable := by
  constructor
  · intro h
    obtain ⟨before, after, hsplit, -⟩ := List.lookup_eq_some_iff.1 h
    simp [hsplit]
  · have hall : ∀ entry ∈ positionSlotsTable, positionSlots? entry.1 = some entry.2 := by decide
    exact hall (w, slots)

theorem windowSize_pos {cfg : Cfg} (h : (cfg.windowSize, cfg.positionSlots) ∈ positionSlotsTable) : 0 < cfg.windowSize := by
  have hall : ∀ entry ∈ positionSlotsTable, 0 < entry.1 := by decide
  exact hall _ h

/-! ### Reset -/

@[simp] theorem State.initial_table (cfg : Cfg) (k : TableKind) :
    (State.initial cfg).table k = Table.absent (symbolCount cfg.positionSlots k) := by
  cases k <;> rfl

/-- Every reset state of a legal configuration meets the invariant (R49). -/
theorem State.initial_inv {cfg : Cfg} (h : (cfg.windowSize, cfg.positionSlots) ∈ positionSlotsTable) : (State.initial cfg).Inv where
  legal := h
  window := ⟨rfl, rfl, windowSize_pos h⟩
  lens k := by
    rw [State.initial_table]
    exact ⟨List.length_replicate, fun L hL => (List.eq_of_mem_replicate hL).le.trans (Nat.zero_le _)⟩
  bits := Nat.zero_le _
  cursor := ⟨Nat.two_pow_pos _, Nat.two_pow_pos _⟩
  block := ⟨Nat.le_refl _, Nat.two_pow_pos _⟩
  header := Nat.two_pow_pos _
  chunks := Nat.two_pow_pos _
  rest _ := rfl
  output := Nat.zero_le _
  input hp := absurd rfl hp
  filled _ k hk := by simp [Table.absent] at hk
  settled _ k hk := by simp [Table.absent] at hk
  owed _ _ := rfl
  body _ := trivial
  place _ _ := rfl

theorem State.resetOf_eq {w slots : Nat} (h : (w, slots) ∈ positionSlotsTable) : State.resetOf w = State.initial ⟨w, slots⟩ := by
  rw [State.resetOf, positionSlots?_eq_some.2 h, Option.getD_some]

/-- Settles O11: each legal window size gives a legal configuration, and every reset state of one meets the invariant. -/
theorem resetMeetsInvariant : Obligations.ResetMeetsInvariant := by
  have hall : ∀ entry ∈ positionSlotsTable, (State.resetOf entry.1).Inv := by
    rintro ⟨w, slots⟩ h
    rw [State.resetOf_eq h]
    exact State.initial_inv h
  exact ⟨hall (2 ^ 25, 98) (by decide), hall⟩

/-- `initState` is the reset state, but for the host's waiting commands and the count of free values drawn (R314). -/
theorem initState_inv {cfg : Cfg} (h : (cfg.windowSize, cfg.positionSlots) ∈ positionSlotsTable) (s : State) (r : HostResult) :
    ((initState cfg s).setResult r).Inv :=
  { State.initial_inv h with }

/-! ### Free registers (R313, R50) -/

theorem free_lt {c reg bound : Nat} (h : 0 < bound) : free c reg bound < bound := Nat.mod_lt _ h

theorem freeWindow_wf (c : Nat) {size : Nat} (h : 0 < size) : (freeWindow c size).Wf size := by
  have hcells : ∀ (cells m : List Host.Cell), memWf m = true → memBelow size m = true →
      memWf (cells.foldl (fun m cell => memWrite m (cell.1 % size) cell.2) m) = true ∧
        memBelow size (cells.foldl (fun m cell => memWrite m (cell.1 % size) cell.2) m) = true := by
    intro cells
    induction cells with
    | nil => exact fun m hw hb => ⟨hw, hb⟩
    | cons cell cells ih => exact fun m hw hb => ih _ (memWf_memWrite hw) (memBelow_memWrite (Nat.mod_lt _ h) hb)
  obtain ⟨hw, hb⟩ := hcells (Config.freeCells c) [] rfl rfl
  exact ⟨hw, hb, free_lt h⟩

theorem freeTable_lens (c reg n : Nat) {bound : Nat} (h : 0 < bound) :
    (freeTable c reg n bound).lens.length = n ∧ ∀ L ∈ (freeTable c reg n bound).lens, L < bound := by
  refine ⟨by simp [freeTable], fun L hL => ?_⟩
  obtain ⟨i, -, rfl⟩ := List.mem_map.1 hL
  exact Nat.mod_lt _ h

theorem State.freed_lens (s : State) (k : TableKind) :
    (s.freed.table k).lens.length = symbolCount s.cfg.positionSlots k ∧ ∀ L ∈ (s.freed.table k).lens, L ≤ longestCode k := by
  have hfree : ∃ reg, s.freed.table k = freeTable s.freeCtr reg (symbolCount s.cfg.positionSlots k) (longestCode k + 1) := by
    cases k <;> exact ⟨_, rfl⟩
  obtain ⟨reg, hreg⟩ := hfree
  rw [hreg]
  obtain ⟨hlen, hlt⟩ := freeTable_lens s.freeCtr reg (symbolCount s.cfg.positionSlots k) (Nat.succ_pos (longestCode k))
  exact ⟨hlen, fun L hL => Nat.le_of_lt_succ (hlt L hL)⟩

/-- A core that is not live and runs no command, every other register free, meets the invariant: every free value lies in its
register's range (R46, R50, R313). -/
theorem State.freed_inv {s : State} (h : (s.cfg.windowSize, s.cfg.positionSlots) ∈ positionSlotsTable) (constructed : Bool)
    (status : FaultStatus) (result : HostResult) (hdead : ¬(constructed = true ∧ status.flag = false)) :
    ({ s.freed with constructed := constructed, fault := status, phase := .idle, result := result } : State).Inv where
  legal := h
  window := freeWindow_wf _ (windowSize_pos h)
  lens := s.freed_lens
  bits := Nat.le_of_lt_succ (free_lt (by decide))
  cursor := ⟨free_lt (Nat.two_pow_pos _), free_lt (Nat.two_pow_pos _)⟩
  block := ⟨Nat.le_of_lt_succ (free_lt (Nat.succ_pos _)), free_lt (Nat.two_pow_pos _)⟩
  header := free_lt (Nat.two_pow_pos _)
  chunks := free_lt (Nat.two_pow_pos _)
  rest _ := rfl
  output := Nat.le_of_lt_succ (free_lt (Nat.succ_pos _))
  input hp := absurd rfl hp
  filled hl := absurd hl hdead
  settled hl := absurd hl hdead
  owed hl := absurd hl hdead
  body hl := absurd hl hdead
  place hl := absurd hl hdead

theorem takeFault_inv {s : State} (h : (s.cfg.windowSize, s.cfg.positionSlots) ∈ positionSlotsTable) (k : FaultKind) :
    (takeFault k s).Inv := State.freed_inv h s.constructed ⟨true, k.code, k.info⟩ _ (by simp)

/-- A free configuration is one of the nine legal ones (R50). -/
theorem freeCfg_legal (c : Nat) : ((freeCfg c).windowSize, (freeCfg c).positionSlots) ∈ positionSlotsTable := by
  have hlt : free c 19 9 < positionSlotsTable.length := free_lt (by decide)
  have hmem : positionSlotsTable.getD (free c 19 9) (Config.resetWindow, 98) ∈ positionSlotsTable := by
    rw [List.getD_eq_getElem _ _ hlt]
    exact List.getElem_mem hlt
  exact hmem

theorem State.unconstructed_inv (s : State) (r : HostResult) : (s.unconstructed.setResult r).Inv :=
  State.freed_inv (s := { s with cfg := freeCfg s.freeCtr }) (freeCfg_legal _) false s.fault r (by simp)

end Sys2Proof.Machine
end

section
/-! One step, said once (R27, R91, R116): which operation the instruction at the command's place runs, and where a step can end. -/

namespace Sys2Proof.Machine

section
variable {s t u : State} {i : Instr}

/-! ### What a place reads -/

theorem decoded_of_decode {f : Format} {w : Nat} (h : decode f w = .ok i) (s : State) : decoded f w s = .ok i s := by
  rw [decoded, h]
  rfl

theorem decoded_ok {f : Format} {w : Nat} (h : decoded f w s = .ok i t) : decode f w = .ok i ∧ t = s := by
  rw [decoded] at h
  cases hd : decode f w with
  | ok j => rw [hd] at h; cases h; exact ⟨rfl, rfl⟩
  | error r => rw [hd] at h; cases h

/-- A pattern that decodes fits its format. -/
theorem decode_fits {f : Format} {w : Nat} (h : decode f w = .ok i) : w < 2 ^ f.width := by
  by_contra hw
  unfold decode at h
  rw [if_pos (Nat.not_lt.1 hw)] at h
  cases h

theorem decode_pretreeSymbol_ok {sym : Nat} (h : decode .pretreeSymbol sym = .ok i) : pretreeCtors[sym]? = some i := by
  rw [decode, if_neg (Nat.not_le.2 (decode_fits h))] at h
  split at h
  · next hi => cases h; exact hi
  · cases h

/-- A main symbol is a literal or a match of its slot (R102). -/
theorem exec_mainSymbol {sym : Nat} (h : decode .mainSymbol sym = .ok i) :
    ∃ m : Op Unit, (∀ s, exec i s = m.run s) ∧
      ((∃ b, m = takeElement (.literal b)) ∨ ∃ slot lh, m = matchSlot slot lh) := by
  rw [decode, if_neg (Nat.not_le.2 (decode_fits h))] at h
  unfold mainInstr at h
  split at h
  · cases h
    exact ⟨_, fun s => rfl, .inl ⟨_, rfl⟩⟩
  · split at h
    · next ctor hctor =>
      cases h
      exact ⟨_, exec_slotCtors hctor _, .inr ⟨_, _, rfl⟩⟩
    · cases h

/-- The operation `m` is the meaning of an instruction that the running command may read in state `s`, and `u` is the state after
the reading (R91, R200, R201, R207). -/
inductive Fetched (s : State) : Op Unit → State → Prop
  | e8 {w u} (place : s.phase = .e8) (read : readBits 1 s = .ok w u) (bit : Nat) : Fetched s (e8Flag bit) u
  | padByte (place : s.phase = .padByte) : Fetched s skipPadByte s
  | header {w u} (place : s.phase = .header) (read : readHeader s = .ok w u) (tag : Nat) (size : BitVec 24) :
    Fetched s (blockHeader tag size) u
  | alignPad (place : s.phase = .alignPad) : Fetched s align s
  | rValues {w u} (place : s.phase = .rValues) (read : readOffsetValues s = .ok w u) (r0 r1 r2 : Word32) :
    Fetched s (setBlockOffsets r0 r1 r2) u
  | alignedLens {w u} (place : s.phase = .alignedLens) (read : readAlignedField s = .ok w u) (l : BitVec 24) :
    Fetched s (setAlignedTree l) u
  | pretreeLens {w u stage} (place : s.phase = .pretreeLens stage) (read : readPretreeField s = .ok w u) (l : BitVec 80) :
    Fetched s (setPretree l) u
  | pretreeSym {sym u stage} (place : s.phase = .pretreeSym stage) (read : decodeSymbol .pre s = .ok sym u) :
    Fetched s (pretreeSymbol sym) u
  | raw (place : s.phase = .element) (kind : s.blk.kind = .uncompressed) : Fetched s (decodeUncompressed.bind takeElement) s
  | literal {sym u} (place : s.phase = .element) (kind : s.blk.kind ≠ .uncompressed) (read : decodeSymbol .main s = .ok sym u)
    (b : Byte) : Fetched s (takeElement (.literal b)) u
  | matched {sym u} (place : s.phase = .element) (kind : s.blk.kind ≠ .uncompressed) (read : decodeSymbol .main s = .ok sym u)
    (slot : Nat) (lh : BitVec 3) : Fetched s (matchSlot slot lh) u
  | tail (place : s.phase = .tail) : Fetched s finishChunk s

/-- What is fetched is an instruction of the command's place. -/
theorem fetch_fetched (h : fetch s = .ok i u) : ∃ m, Fetched s m u ∧ exec i u = m.run u := by
  unfold fetch at h
  split at h
  case h_1 => cases h
  case h_2 hp =>
    obtain ⟨w, v, hr, h⟩ := Op.bind_ok_iff.1 h
    obtain ⟨hd, rfl⟩ := decoded_ok h
    rw [decode_chunkPrefix (decode_fits hd)] at hd
    cases hd
    refine ⟨_, .e8 hp hr (if w = 0 then 0 else 1), ?_⟩
    split <;> rfl
  case h_3 hp => cases h; exact ⟨_, .padByte hp, rfl⟩
  case h_4 hp =>
    obtain ⟨w, v, hr, h⟩ := Op.bind_ok_iff.1 h
    obtain ⟨hd, rfl⟩ := decoded_ok h
    have hw := decode_fits hd
    rw [decode_blockHeader hw] at hd
    cases hd
    exact ⟨_, .header hp hr _ _, exec_headerInstr (Nat.div_lt_of_lt_mul hw) _ u⟩
  case h_5 hp => cases h; exact ⟨_, .alignPad hp, rfl⟩
  case h_6 hp =>
    obtain ⟨w, v, hr, h⟩ := Op.bind_ok_iff.1 h
    obtain ⟨hd, rfl⟩ := decoded_ok h
    rw [decode_rValues (decode_fits hd)] at hd
    cases hd
    exact ⟨_, .rValues hp hr _ _ _, rfl⟩
  case h_7 hp =>
    obtain ⟨l, v, hr, h⟩ := Op.bind_ok_iff.1 h
    obtain ⟨hd, rfl⟩ := decoded_ok h
    rw [decode_alignedLengths] at hd
    cases hd
    exact ⟨_, .alignedLens hp hr l, rfl⟩
  case h_8 stage hp =>
    obtain ⟨l, v, hr, h⟩ := Op.bind_ok_iff.1 h
    obtain ⟨hd, rfl⟩ := decoded_ok h
    rw [decode_pretreeLengths] at hd
    cases hd
    exact ⟨_, .pretreeLens hp hr l, rfl⟩
  case h_9 stage hp =>
    obtain ⟨sym, v, hr, h⟩ := Op.bind_ok_iff.1 h
    unfold decodedPretree at h
    split at h
    · cases h
    · obtain ⟨hd, rfl⟩ := decoded_ok h
      exact ⟨_, .pretreeSym hp hr, exec_pretreeCtors (decode_pretreeSymbol_ok hd) u⟩
  case h_10 hp =>
    split at h
    · next hk => cases h; exact ⟨_, .raw hp hk, rfl⟩
    · next hk =>
      obtain ⟨sym, v, hr, h⟩ := Op.bind_ok_iff.1 h
      obtain ⟨hd, rfl⟩ := decoded_ok h
      obtain ⟨m, hm, ⟨b, rfl⟩ | ⟨slot, lh, rfl⟩⟩ := exec_mainSymbol hd
      · exact ⟨_, .literal hp hk hr b, hm u⟩
      · exact ⟨_, .matched hp hk hr slot lh, hm u⟩
  case h_11 hp => cases h; exact ⟨_, .tail hp, rfl⟩

/-- Where a step of a running command can end: with a fault of the reading, of the instruction or of the move, or completed. -/
theorem step_running (hp : s.phase ≠ .idle) (h : step s = .next t) :
    (∃ k, t = takeFault k s) ∨ ∃ m u, Fetched s m u ∧
      ((∃ k, m u = .raise k ∧ t = takeFault k u) ∨
        ∃ v, m u = .ok () v ∧ (advance v = .ok () t ∨ ∃ k, t = takeFault k v)) := by
  rw [step, if_neg hp] at h
  cases hf : fetch s with
  | stuck r => rw [hf] at h; cases h
  | raise k => rw [hf] at h; cases h; exact .inl ⟨k, rfl⟩
  | ok i u =>
    obtain ⟨m, hm, hi⟩ := fetch_fetched hf
    refine .inr ⟨m, u, hm, ?_⟩
    rw [hf, stepFetched, hi] at h
    cases hmu : m u with
    | stuck r => rw [Op.run_of_stuck hmu] at h; cases h
    | raise k =>
      rw [Op.run_of_raise hmu] at h
      cases h
      exact .inl ⟨k, rfl, rfl⟩
    | ok _ v =>
      rw [Op.run_of_ok hmu] at h
      refine .inr ⟨v, rfl, ?_⟩
      rcases Op.run_next h with ha | ⟨k, -, ht⟩
      · exact .inl ha
      · exact .inr ⟨k, ht⟩

end

theorem Reads.phase_ne_idle {s t : State} {f : Format} {w : Nat} (h : Reads s f w t) : s.phase ≠ .idle := by
  intro hp
  simp only [Reads, hp] at h

/-- A pattern that is read at the command's place, and decodes, is the instruction fetched (R91, R116). -/
theorem fetch_of_reads {s t : State} {f : Format} {w : Nat} {i : Instr} (h : Reads s f w t) (hd : decode f w = .ok i) :
    fetch s = .ok i t := by
  have hdec : decoded f w t = .ok i t := decoded_of_decode hd t
  unfold Reads at h
  unfold fetch
  split at h
  case h_1 hp => simp only [hp]; rw [Op.bind_of_ok h, hdec]
  case h_2 hp =>
    obtain ⟨tag, size, hr, rfl⟩ := h
    simp only [hp]
    rw [Op.bind_of_ok hr, hdec]
  case h_3 hp =>
    obtain ⟨r0, r1, r2, hr, rfl⟩ := h
    simp only [hp]
    rw [Op.bind_of_ok hr, hdec]
  case h_4 hp =>
    obtain ⟨l, hr, rfl⟩ := h
    simp only [hp]
    rw [Op.bind_of_ok hr, hdec]
  case h_5 stage hp =>
    obtain ⟨l, hr, rfl⟩ := h
    simp only [hp]
    rw [Op.bind_of_ok hr, hdec]
  case h_6 stage hp =>
    have hsym : w < 20 := (List.getElem?_eq_some_iff.1 (decode_pretreeSymbol_ok hd)).1
    simp only [hp]
    rw [Op.bind_of_ok h, decodedPretree, if_neg (by omega), hdec]
  case h_7 hp =>
    obtain ⟨hk, hr⟩ := h
    simp only [hp]
    rw [if_neg hk, Op.bind_of_ok hr, hdec]
  case h_8 hp =>
    obtain ⟨hk, rfl, rfl⟩ := h
    cases hd
    simp only [hp]
    rw [if_pos hk]
  case h_9 hp | h_10 hp | h_11 hp =>
    obtain ⟨rfl, rfl⟩ := h
    cases hd
    simp only [hp]
  case h_12 => exact h.elim

/-- Settles O5: what the fetch delivers is the instruction that the pattern read decodes to, and the step runs it, then moves on. -/
theorem stepRunsDecodedInstruction : Obligations.StepRunsDecodedInstruction := by
  intro s t f w i hreads hdec
  rw [step, if_neg hreads.phase_ne_idle, fetch_of_reads hreads hdec]
  cases hi : exec i t <;> simp only [stepFetched, Outcome.andThen, hi]

end Sys2Proof.Machine
end

section
/-! What a running command keeps at every place, whatever it does there: the registers in their ranges, the tables sound, the reader inside its
input (R23, R31, R37 to R39, R46). The place's own conditions come on top of it in `State.Inv`. -/

namespace Sys2Proof.Machine

/-! ### The parts -/

/-- The cursor is inside the input, but for `slack` bytes (R23, R24). -/
structure Reader.Within (r : Reader) (slack : Nat) : Prop where
  loaded : r.data.length = r.len
  small : r.len ≤ Config.inMaxBytes
  bits : r.bitsLeft ≤ 16
  cursor : r.bytePos ≤ r.len + slack

/-- A table of kind `k` in a core with `slots` position slots: its lengths in their ranges and, where it is present, filled (R31, R37). -/
structure Table.Sound (t : Table) (slots : Nat) (k : TableKind) : Prop where
  count : t.lens.length = symbolCount slots k
  small : ∀ L ∈ t.lens, L ≤ longestCode k
  filled : t.present = true → t.Filled

/-- A block's size and debt are in their ranges, and no block owes nothing (R29). -/
structure Block.Sound (b : Block) : Prop where
  debt : b.remaining ≤ b.size
  size : b.size < 2 ^ 24
  owed : b.kind = .none → b.remaining = 0

/-- What a live core keeps while a command runs. -/
structure State.Steady (slack : Nat) (s : State) : Prop where
  live : s.Live
  legal : (s.cfg.windowSize, s.cfg.positionSlots) ∈ positionSlotsTable
  window : s.win.Wf s.cfg.windowSize
  reader : s.br.Within slack
  tables : ∀ k, (s.table k).Sound s.cfg.positionSlots k
  block : s.blk.Sound
  header : s.hdr.size < 2 ^ 24
  chunks : s.decodedChunks < 2 ^ 32
  output : s.cmd.outputSize ≤ Config.outputMax

/-- Every present table is in step with its lengths, but for a table that the place `p` says is being updated (R37, R347). -/
def State.SettledAt (s : State) (p : Phase) : Prop := ∀ k, (s.table k).present = true → p.updates k = false → (s.table k).Settled

/-- The bytes that the cursor may stand behind the input: the word an Uncompressed body's padding skips unread (R137). -/
def Phase.overhang (p : Phase) : Nat := if p = .rValues then 2 else 0

/-! ### Readers -/

section
variable {r q : Reader} {n : Nat}

theorem Reader.load_within {data : List Byte} (h : data.length ≤ Config.inMaxBytes) : (Reader.load data).Within 0 :=
  ⟨rfl, h, Nat.zero_le _, Nat.zero_le _⟩

theorem Reader.Within.advanced (h : r.Within 0) (ha : r.Advanced q n) (hn : n ≤ r.stream.length) : q.Within 0 where
  loaded := by rw [ha.data, ha.len, h.loaded]
  small := by rw [ha.len]; exact h.small
  bits := ha.bitsLeft_le h.bits
  cursor := ha.bytePos_le hn h.cursor

/-- The three offsets of an Uncompressed body are read from a word boundary, and to one, even where the skipped word was not in the
input (R137, R203). -/
theorem Reader.Within.advanced_rValues {slack : Nat} (h : r.Within slack) (h0 : r.bitsLeft = 0) (ha : r.Advanced q 96)
    (hn : 96 ≤ r.stream.length) : q.Within 0 ∧ q.bitsLeft = 0 := by
  have hpos : r.bytePos ≤ r.len := by
    rw [Reader.stream_length] at hn
    omega
  have hcount := ha.counted
  exact ⟨Reader.Within.advanced { h with cursor := hpos } ha hn, by omega⟩

theorem Reader.Within.readByte {b : Byte} (h : r.Within 0) (hq : r.readByte = .ok (b, q)) : q.Within 0 := by
  unfold Reader.readByte at hq
  split at hq
  · cases hq
  · next hlt => cases hq; exact { h with cursor := Nat.not_lt.1 hlt }

theorem Reader.align_bitsLeft (r : Reader) : r.align.bitsLeft = 0 := by
  unfold Reader.align
  split
  · next h => exact h
  · rfl

theorem Reader.Within.align (h : r.Within 0) : r.align.Within 2 := by
  have hpos := h.cursor
  unfold Reader.align
  split
  · exact { h with cursor := by dsimp only; omega }
  · exact { h with bits := Nat.zero_le _, cursor := by dsimp only; omega }

end

/-! ### Tables -/

theorem longestCode_le (k : TableKind) : longestCode k ≤ 16 := by cases k <;> decide

section
variable {t u : Table} {slots : Nat} {k : TableKind}

theorem Table.Sound.build (h : t.Sound slots k) (hb : t.build k = .ok u) : u.Sound slots k where
  count := by rw [Table.build_lens hb, h.count]
  small := by rw [Table.build_lens hb]; exact h.small
  filled hp := (Table.build_filled hb (fun L hL => (h.small L hL).trans (longestCode_le k)) hp).1

theorem Table.Sound.build_settled (h : t.Sound slots k) (hb : t.build k = .ok u) (hp : u.present = true) : u.Settled :=
  (Table.build_filled hb (fun L hL => (h.small L hL).trans (longestCode_le k)) hp).2

/-- New lengths keep a table filled: its entries stay symbols of the kind (R347). -/
theorem Table.Sound.setLens (h : t.Sound slots k) {lens : List Nat} (hl : lens.length = symbolCount slots k)
    (hs : ∀ L ∈ lens, L ≤ longestCode k) : ({ t with lens := lens } : Table).Sound slots k where
  count := hl
  small := hs
  filled hp := { h.filled hp with entry := fun sym hsym => by rw [hl, ← h.count]; exact (h.filled hp).entry sym hsym }

end

/-! ### Register writes -/

section
variable {s : State} {slack : Nat}

theorem State.Steady.setBr (h : s.Steady slack) {slack' : Nat} {q : Reader} (hq : q.Within slack') : (s.setBr q).Steady slack' :=
  { h with reader := hq }

theorem State.Steady.setRep (h : s.Steady slack) (c : OffsetCache) : (s.setRep c).Steady slack := { h with }

theorem State.Steady.setElt (h : s.Steady slack) (e : MatchLocals) : (s.setElt e).Steady slack := { h with }

theorem State.Steady.setUpd (h : s.Steady slack) (u : Update) : (s.setUpd u).Steady slack := { h with }

theorem State.Steady.setHdr (h : s.Steady slack) {hdr : Header} (hh : hdr.size < 2 ^ 24) : (s.setHdr hdr).Steady slack :=
  { h with header := hh }

theorem State.Steady.setWin (h : s.Steady slack) {w : Window} (hw : w.Wf s.cfg.windowSize) : (s.setWin w).Steady slack :=
  { h with window := hw }

theorem State.Steady.setBlk (h : s.Steady slack) {b : Block} (hb : b.Sound) : (s.setBlk b).Steady slack := { h with block := hb }

theorem State.Steady.setCmd (h : s.Steady slack) {c : Command} (hc : c.outputSize ≤ Config.outputMax) : (s.setCmd c).Steady slack :=
  { h with output := hc }

theorem State.Steady.setTable (h : s.Steady slack) {k : TableKind} {v : Table} (hv : v.Sound s.cfg.positionSlots k) :
    (s.setTable k v).Steady slack where
  live := by simpa [State.Live] using h.live
  legal := by simpa using h.legal
  window := by simpa using h.window
  reader := by simpa using h.reader
  tables j := by
    rw [State.setTable_cfg]
    by_cases hj : j = k
    · subst hj
      rw [State.setTable_table_same]
      exact hv
    · rw [State.setTable_table_other _ _ _ _ hj]
      exact h.tables j
  block := by simpa using h.block
  header := by simpa using h.header
  chunks := by simpa using h.chunks
  output := by simpa using h.output

theorem lensKind_longestCode (t : LenArray) : longestCode (lensKind t) = 16 := by cases t <;> rfl

/-- A run of a table update writes lengths only (R181). -/
theorem State.Steady.writeRun (h : s.Steady slack) {value : Nat} (hv : value ≤ 16) (run : Nat) : (s.writeRun value run).Steady slack := by
  have ht := h.tables (lensKind s.upd.target)
  have hlens : ∀ L ∈ fillRun s.updLens s.upd.pos value run, L ≤ longestCode (lensKind s.upd.target) := by
    intro L hL
    rcases mem_fillRun hL with rfl | hold
    · rw [lensKind_longestCode]; exact hv
    · exact ht.small L hold
  exact (h.setTable (ht.setLens (by rw [fillRun_length]; exact ht.count) hlens)).setUpd _

/-! ### Which tables are settled -/

theorem State.SettledAt.of_tables {t : State} {p p' : Phase} (h : s.SettledAt p) (ht : ∀ k, t.table k = s.table k)
    (hp : ∀ k, p'.updates k = false → p.updates k = false) : t.SettledAt p' := fun k hk hu => by
  rw [ht k] at hk ⊢
  exact h k hk (hp k hu)

/-- A table written settled, or at a place that says it is being updated, leaves the others as they were. -/
theorem State.SettledAt.setTable {p p' : Phase} {j : TableKind} {v : Table} (h : s.SettledAt p)
    (hv : v.present = true → p'.updates j = false → v.Settled) (hp : ∀ k, k ≠ j → p'.updates k = false → p.updates k = false) :
    (s.setTable j v).SettledAt p' := fun k hk hu => by
  by_cases hj : k = j
  · subst hj
    rw [State.setTable_table_same] at hk ⊢
    exact hv hk hu
  · rw [State.setTable_table_other _ _ _ _ hj] at hk ⊢
    exact h k hk (hp k hj hu)

/-! ### Into and out of the invariant -/

theorem State.Inv.steady (h : s.Inv) (hp : s.phase ≠ .idle) : s.Steady s.phase.overhang where
  live := h.live hp
  legal := h.legal
  window := h.window
  reader := by
    obtain ⟨hload, hsmall, hcursor⟩ := h.input hp
    exact ⟨hload, hsmall, h.bits, hcursor⟩
  tables k := ⟨(h.lens k).1, (h.lens k).2, h.filled (h.live hp) k⟩
  block := ⟨h.block.1, h.block.2, h.owed (h.live hp)⟩
  header := h.header
  chunks := h.chunks
  output := h.output

/-- The invariant after the move to a place: what is kept everywhere, and the place's own conditions. -/
theorem State.Steady.inv_setPhase {p : Phase} (h : s.Steady p.overhang) (hset : s.SettledAt p) (hbody : p.bodyFits s.hdr.kind)
    (hplace : (s.setPhase p).PhaseFits) : (s.setPhase p).Inv where
  legal := h.legal
  window := h.window
  lens k := by rw [State.setPhase_table]; exact ⟨(h.tables k).count, (h.tables k).small⟩
  bits := h.reader.bits
  cursor := by
    have hslack : p.overhang ≤ 2 := by unfold Phase.overhang; split <;> omega
    have hsmall := h.reader.small
    have hcursor := h.reader.cursor
    rw [State.setPhase_br]
    unfold Config.inMaxBytes at hsmall
    omega
  block := ⟨h.block.debt, h.block.size⟩
  header := h.header
  chunks := h.chunks
  rest hdead := absurd h.live hdead
  output := h.output
  input _ := ⟨h.reader.loaded, h.reader.small, h.reader.cursor⟩
  filled _ k hk := by rw [State.setPhase_table] at hk ⊢; exact (h.tables k).filled hk
  settled _ k hk hu := by rw [State.setPhase_table] at hk ⊢; exact hset k hk hu
  owed _ := h.block.owed
  body _ := hbody
  place _ := hplace

end

end Sys2Proof.Machine
end

section
/-! Predicates that operations keep: how keeping composes, and the predicates that decoding and taking an element keep whatever the element
is, because its register writes keep them (R207 to R219, R268, R269). -/

namespace Sys2Proof.Machine

section
variable {α β : Type} {P : State → Prop} {m : Op α} {f : α → Op β}

/-- Where the operation completes from a state that meets `P`, the state it leaves meets `P`. -/
def Op.Keeps (P : State → Prop) (m : Op α) : Prop := ∀ s a t, P s → m s = .ok a t → P t

theorem Op.Keeps.bind (hm : m.Keeps P) (hf : ∀ a, (f a).Keeps P) : (m.bind f).Keeps P := by
  intro s b u hs h
  obtain ⟨a, t, hmt, hfu⟩ := Op.bind_ok_iff.1 h
  exact hf a t b u (hm s a t hs hmt) hfu

theorem Op.Keeps.andThen {n : Op β} (hm : m.Keeps P) (hn : n.Keeps P) : (m.andThen n).Keeps P := hm.bind fun _ => hn

theorem Op.Keeps.ite {c : State → Prop} [DecidablePred c] {n : Op α} (hm : m.Keeps P) (hn : n.Keeps P) :
    Op.Keeps P fun s => if c s then m s else n s := by
  intro s a t hs h
  dsimp only at h
  split at h
  · exact hm s a t hs h
  · exact hn s a t hs h

theorem Op.pure_keeps (a : α) : (Op.pure a).Keeps P := by
  intro s b t hs h
  cases h
  exact hs

theorem Op.raise_keeps (k : FaultKind) : (Op.raise k : Op α).Keeps P := by
  intro s b t _ h
  cases h

theorem Op.get_keeps (g : State → α) : (Op.get g).Keeps P := by
  intro s b t hs h
  cases h
  exact hs

theorem Op.modify_keeps {g : State → State} (hg : ∀ s, P s → P (g s)) : (Op.modify g).Keeps P := by
  intro s b t hs h
  cases h
  exact hg s hs

end

/-- The register writes of decoding and taking an element keep `P`: a reader that stays inside the input, the cache, the match's locals, a
window that stays well formed, the accounting. -/
structure DecodeStable (P : State → Prop) : Prop where
  br : ∀ {s q}, P s → (s.br.Within 0 → q.Within 0) → P (s.setBr q)
  rep : ∀ {s} c, P s → P (s.setRep c)
  elt : ∀ {s} e, P s → P (s.setElt e)
  win : ∀ {s w}, P s → (s.win.Wf s.cfg.windowSize → w.Wf s.cfg.windowSize) → P (s.setWin w)
  spend : ∀ {s} n, P s → P ((s.setBlk { s.blk with remaining := s.blk.remaining - n }).setCmd { s.cmd with produced := s.cmd.produced + n })

section
variable {P : State → Prop} (hP : DecodeStable P)
include hP

/-! ### Reading -/

theorem readBits_keeps (n : Nat) : (readBits n).Keeps P := by
  intro s v t hs h
  obtain ⟨hn, -, q, rfl, ha⟩ := readBits_ok h
  exact hP.br hs fun hw => hw.advanced ha hn

theorem decodeSymbol_keeps (k : TableKind) : (decodeSymbol k).Keeps P := by
  intro s sym t hs h
  obtain ⟨-, -, hn, q, rfl, ha⟩ := decodeSymbol_ok h
  exact hP.br hs fun hw => hw.advanced ha hn

theorem readBytes_keeps (n : Nat) : (readBytes n).Keeps P := by
  intro s bs t hs h
  by_cases hn : s.br.bytePos + n ≤ s.br.len
  · rw [readBytes_ok hn] at h
    cases h
    exact hP.br hs fun hw => { hw with cursor := hn }
  · rw [readBytes_raise (Nat.not_le.1 hn)] at h
    cases h

/-! ### Match length and match offset -/

theorem setMatchLength_keeps (n : Nat) : (setMatchLength n).Keeps P := Op.modify_keeps fun _ hs => hP.elt _ hs

theorem lengthHeader_keeps (lh : Nat) : (lengthHeader lh).Keeps P := by
  unfold lengthHeader
  split
  · exact (decodeSymbol_keeps hP .len).bind fun t => setMatchLength_keeps hP _
  · exact setMatchLength_keeps hP _

theorem matchLength_keeps (lh : Nat) : (matchLength lh).Keeps P := (lengthHeader_keeps hP lh).andThen (Op.get_keeps _)

theorem setMatchSlot_keeps (slot : Nat) : (setMatchSlot slot).Keeps P := Op.modify_keeps fun _ hs => hP.elt _ hs

theorem setMatchOffset_keeps (offset : Word32) : (setMatchOffset offset).Keeps P := Op.modify_keeps fun _ hs => hP.elt _ hs

theorem pushOffset_keeps (offset : Word32) : (pushOffset offset).Keeps P := Op.modify_keeps fun _ hs => hP.rep _ hs

theorem newOffset_keeps (offset : Word32) : (newOffset offset).Keeps P :=
  (setMatchOffset_keeps hP offset).andThen (pushOffset_keeps hP offset)

theorem matchOffset0_keeps : matchOffset0.Keeps P := fun s => setMatchOffset_keeps hP s.rep.r0 s

theorem matchOffset1_keeps : matchOffset1.Keeps P :=
  fun s => ((Op.modify_keeps fun _ ht => hP.rep ⟨s.rep.r1, s.rep.r0, s.rep.r2⟩ ht).andThen (setMatchOffset_keeps hP s.rep.r1)) s

theorem matchOffset2_keeps : matchOffset2.Keeps P :=
  fun s => ((Op.modify_keeps fun _ ht => hP.rep ⟨s.rep.r2, s.rep.r1, s.rep.r0⟩ ht).andThen (setMatchOffset_keeps hP s.rep.r2)) s

theorem setRawOffsetBits_keeps (v : Nat) : (Op.modify fun s => s.setElt { s.elt with v := v }).Keeps P :=
  Op.modify_keeps fun _ hs => hP.elt _ hs

theorem verbatimOffsetDone_keeps : verbatimOffsetDone.Keeps P :=
  fun s => newOffset_keeps hP (verbatimOffset s.elt.slot s.elt.v) s

theorem alignedSymbol_keeps (a : Nat) : (alignedSymbol a).Keeps P :=
  fun s => newOffset_keeps hP (alignedOffset s.elt.slot s.elt.v a) s

theorem footerField_keeps : footerField.Keeps P :=
  have hraw : readRawOffsetBits.Keeps P :=
    fun s => ((readBits_keeps hP (s.rawOffsetBits s.elt.slot)).bind fun v => setRawOffsetBits_keeps hP v) s
  hraw.andThen (Op.Keeps.ite (Op.pure_keeps ()) (verbatimOffsetDone_keeps hP))

theorem matchOffset_keeps : ∀ slot : Nat, (matchOffset slot).Keeps P
  | 0 => matchOffset0_keeps hP
  | 1 => matchOffset1_keeps hP
  | 2 => matchOffset2_keeps hP
  | slot + 3 =>
    have haligned : ((decodeSymbol .align).bind alignedSymbol).Keeps P :=
      (decodeSymbol_keeps hP .align).bind fun a => alignedSymbol_keeps hP a
    (setMatchSlot_keeps hP (slot + 3)).andThen ((footerField_keeps hP).andThen (haligned.ite (Op.pure_keeps ())))

/-! ### Elements -/

theorem matchElement_keeps (slot lh : Nat) : (matchElement slot lh).Keeps P :=
  have hmatch : ((matchLength lh).bind fun length =>
      (matchOffset slot).andThen (Op.get fun t => Element.matched t.elt.offset length)).Keeps P :=
    (matchLength_keeps hP lh).bind fun _ => (matchOffset_keeps hP slot).andThen (Op.get_keeps _)
  hmatch.ite fun _ _ _ _ h => nomatch h

theorem decodeCoded_keeps : decodeCoded.Keeps P :=
  (decodeSymbol_keeps hP .main).bind fun sym => by
    split
    · exact Op.pure_keeps _
    · exact matchElement_keeps hP _ _

theorem decodeUncompressed_keeps : decodeUncompressed.Keeps P :=
  (Op.modify_keeps fun _ hs => hP.rep _ hs).andThen <|
    Op.Keeps.ite (Op.raise_keeps .internalInvariant) (Op.get_keeps fun s => Element.bulkRead (min s.blk.remaining s.br.remaining))

theorem decodeElement_keeps : decodeElement.Keeps P := Op.Keeps.ite (decodeUncompressed_keeps hP) (decodeCoded_keeps hP)

theorem push_keeps (b : Byte) : (push b).Keeps P := Op.modify_keeps fun _ hs => hP.win hs Window.Wf.push

theorem copyFromSelf_keeps (offset length : Nat) : (copyFromSelf offset length).Keeps P := by
  intro s a t hs h
  rcases copyFromSelf_cases (offset := offset) (length := length) (s := s) with ⟨-, -, hc⟩ | ⟨-, hc⟩ | ⟨-, hc⟩ <;>
    rw [hc] at h <;> cases h
  exact hP.win hs (Window.Wf.copy offset)

theorem copyFromBitstream_keeps (n : Nat) : (copyFromBitstream n).Keeps P :=
  (readBytes_keeps hP n).bind fun _ => Op.modify_keeps fun _ hs => hP.win hs Window.Wf.pushAll

theorem takeElement_keeps (e : Element) : (takeElement e).Keeps P := by
  have happly : (applyElement e).Keeps P := by
    cases e with
    | literal b => exact push_keeps hP b
    | matched offset length => exact copyFromSelf_keeps hP offset.toNat length
    | bulkRead n => exact copyFromBitstream_keeps hP n
  have haccount : (account e.length).Keeps P := by
    intro s a t hs h
    rcases account_cases e.length s with ⟨-, hc⟩ | ⟨-, hc⟩ <;> rw [hc] at h <;> cases h
    exact hP.spend _ hs
  exact happly.andThen haccount

theorem matchSlot_keeps (slot : Nat) (lh : BitVec 3) : (matchSlot slot lh).Keeps P :=
  (matchElement_keeps hP slot lh.toNat).bind fun e => takeElement_keeps hP e

end

end Sys2Proof.Machine
end

section
/-! What instructions leave alone (R41 to R45, R50). The configuration, `CONSTRUCTED`, `FAULT.*` and the host's side stay in every
operation; the output, the counters and the result stay in every operation but the end of a chunk. -/

namespace Sys2Proof.Machine

/-- The registers that only a host command or a fault entry writes are in `t` as in `c` (R41, R44, R50; log 5, log 8). -/
structure State.SameStatus (c t : State) : Prop where
  cfg : t.cfg = c.cfg
  constructed : t.constructed = c.constructed
  fault : t.fault = c.fault
  host : t.host = c.host
  freeCtr : t.freeCtr = c.freeCtr

/-- Those, and what only the end of a chunk command writes besides (R42, R43, R45). -/
structure State.SameOutside (c t : State) : Prop extends State.SameStatus c t where
  out : t.out = c.out
  chunkOffset : t.chunkOffset = c.chunkOffset
  decodedChunks : t.decodedChunks = c.decodedChunks
  result : t.result = c.result

theorem State.SameOutside.refl (s : State) : s.SameOutside s := ⟨⟨rfl, rfl, rfl, rfl, rfl⟩, rfl, rfl, rfl, rfl⟩

theorem State.SameStatus.trans {s t u : State} (h : s.SameStatus t) (g : t.SameStatus u) : s.SameStatus u :=
  ⟨g.cfg.trans h.cfg, g.constructed.trans h.constructed, g.fault.trans h.fault, g.host.trans h.host, g.freeCtr.trans h.freeCtr⟩

/-- A fault taken later in an instruction leaves the same state as one taken at its start (R313). -/
theorem State.SameStatus.takeFault {s t : State} (h : s.SameStatus t) (k : FaultKind) : takeFault k t = takeFault k s :=
  takeFault_congr k s h.cfg h.constructed h.host h.freeCtr

section
variable {c : State}

/-! ### Register writes -/

theorem State.SameOutside.stable (c : State) : DecodeStable c.SameOutside where
  br h _ := { h with }
  rep _ h := { h with }
  elt _ h := { h with }
  win h _ := { h with }
  spend _ h := { h with }

theorem State.SameOutside.setBr {s : State} (h : c.SameOutside s) (r : Reader) : c.SameOutside (s.setBr r) := { h with }

theorem State.SameOutside.setBlk {s : State} (h : c.SameOutside s) (b : Block) : c.SameOutside (s.setBlk b) := { h with }

theorem State.SameOutside.setHdr {s : State} (h : c.SameOutside s) (v : Header) : c.SameOutside (s.setHdr v) := { h with }

theorem State.SameOutside.setUpd {s : State} (h : c.SameOutside s) (u : Update) : c.SameOutside (s.setUpd u) := { h with }

theorem State.SameOutside.setRet {s : State} (h : c.SameOutside s) (v : Returned) : c.SameOutside (s.setRet v) := { h with }

theorem State.SameOutside.setTable {s : State} (h : c.SameOutside s) (k : TableKind) (v : Table) : c.SameOutside (s.setTable k v) := by
  cases k <;> exact { h with }

/-! ### Reading -/

theorem onReader_framed {α : Type} (f : Reader → Except FaultKind (α × Reader)) : (onReader f).Keeps c.SameOutside := by
  intro s a t hs h
  obtain ⟨r, -, rfl⟩ := onReader_ok h
  exact hs.setBr r

theorem readBits_framed (n : Nat) : (readBits n).Keeps c.SameOutside := onReader_framed _

theorem decodeSymbol_framed (k : TableKind) : (decodeSymbol k).Keeps c.SameOutside := decodeSymbol_keeps (State.SameOutside.stable c) k

theorem readU32le_framed : readU32le.Keeps c.SameOutside :=
  (readBits_framed 16).bind fun _ => (readBits_framed 16).bind fun _ => Op.pure_keeps _

theorem readU24be_framed : readU24be.Keeps c.SameOutside :=
  (readBits_framed 16).bind fun _ => (readBits_framed 8).bind fun _ => Op.pure_keeps _

theorem readFields_framed (width : Nat) : ∀ count : Nat, (readFields width count).Keeps c.SameOutside
  | 0 => Op.pure_keeps _
  | count + 1 => (readBits_framed width).bind fun _ => (readFields_framed width count).bind fun _ => Op.pure_keeps _

theorem skipPadByte_framed : skipPadByte.Keeps c.SameOutside := (onReader_framed _).bind fun _ => Op.pure_keeps _

theorem readOffsetValues_framed : readOffsetValues.Keeps c.SameOutside :=
  readU32le_framed.bind fun _ => readU32le_framed.bind fun _ => readU32le_framed.bind fun _ => Op.pure_keeps _

theorem readHeader_framed : readHeader.Keeps c.SameOutside :=
  (readBits_framed 3).bind fun _ => readU24be_framed.bind fun _ => Op.pure_keeps _

/-! ### Tables -/

theorem buildTable_framed (k : TableKind) : (buildTable k).Keeps c.SameOutside := by
  intro s a t hs h
  rcases buildTable_cases k s with ⟨v, -, hb⟩ | ⟨e, -, hb⟩ <;> rw [hb] at h <;> cases h
  exact hs.setTable k v

theorem setPretree_framed (l : BitVec 80) : (setPretree l).Keeps c.SameOutside :=
  (Op.modify_keeps fun _ hs => hs.setTable .pre _).andThen (buildTable_framed .pre)

theorem setAlignedTree_framed (l : BitVec 24) : (setAlignedTree l).Keeps c.SameOutside :=
  (Op.modify_keeps fun _ hs => hs.setTable .align _).andThen (buildTable_framed .align)

theorem readPretree_framed : readPretree.Keeps c.SameOutside :=
  ((readFields_framed 4 nPre).bind fun _ => Op.pure_keeps _).bind setPretree_framed

theorem readAlignedTree_framed : readAlignedTree.Keeps c.SameOutside :=
  ((readFields_framed 3 nAlign).bind fun _ => Op.pure_keeps _).bind setAlignedTree_framed

theorem writeRun_framed {s : State} (hs : c.SameOutside s) (value run : Nat) : c.SameOutside (s.writeRun value run) :=
  (hs.setTable _ _).setUpd _

theorem whileUpdating_framed {m : Op Unit} (hm : m.Keeps c.SameOutside) : (whileUpdating m).Keeps c.SameOutside :=
  hm.ite fun _ _ _ _ h => nomatch h

theorem writeRunChecked_framed (value run : Nat) : (writeRunChecked value run).Keeps c.SameOutside := by
  intro s a t hs h
  rcases writeRunChecked_cases value run s with ⟨-, hw⟩ | ⟨-, hw⟩ <;> rw [hw] at h <;> cases h
  exact writeRun_framed hs value run

theorem ptDelta_framed (code : Nat) : (ptDelta code).Keeps c.SameOutside :=
  whileUpdating_framed (Op.modify_keeps fun _ hs => writeRun_framed hs _ 1)

theorem ptZeroRun_framed (bits base : Nat) : (ptZeroRun bits base).Keeps c.SameOutside :=
  whileUpdating_framed ((readBits_framed bits).bind fun _ => writeRunChecked_framed 0 _)

theorem readNewCode_framed : readNewCode.Keeps c.SameOutside :=
  (decodeSymbol_framed .pre).bind fun code => by
    split
    · exact Op.raise_keeps _
    · exact Op.pure_keeps _

theorem ptSameRun_framed : ptSameRun.Keeps c.SameOutside :=
  whileUpdating_framed <| (readBits_framed 1).bind fun same => readNewCode_framed.bind fun code =>
    fun s => writeRunChecked_framed (s.deltaHere code) (same + 4) s

theorem pretreeSymbol_framed (sym : Nat) : (pretreeSymbol sym).Keeps c.SameOutside := by
  unfold pretreeSymbol
  split_ifs
  · exact ptDelta_framed sym
  · exact ptZeroRun_framed 4 4
  · exact ptZeroRun_framed 5 20
  · exact ptSameRun_framed
  · exact Op.raise_keeps _

theorem updateLoop_framed : ∀ n : Nat, (updateLoop n).Keeps c.SameOutside
  | 0 => Op.pure_keeps ()
  | n + 1 =>
    have hpass : (((decodeSymbol .pre).bind pretreeSymbol).andThen (updateLoop n)).Keeps c.SameOutside :=
      ((decodeSymbol_framed .pre).bind pretreeSymbol_framed).andThen (updateLoop_framed n)
    hpass.ite (Op.pure_keeps ())

theorem updateRange_framed (t : LenArray) (start stop : Nat) : (updateRange t start stop).Keeps c.SameOutside :=
  readPretree_framed.andThen ((Op.modify_keeps fun _ hs => hs.setUpd _).andThen (updateLoop_framed _))

theorem updateStage_framed (stage : UpdateStage) : (updateStage stage).Keeps c.SameOutside := fun s => updateRange_framed _ _ _ s

theorem readTables_framed : readTables.Keeps c.SameOutside :=
  (updateStage_framed .literals).andThen <| (updateStage_framed .matches).andThen <| (buildTable_framed .main).andThen <|
    (updateStage_framed .lengths).andThen (buildTable_framed .len)

/-! ### Blocks -/

theorem blockHeader_framed (tag : Nat) (size : BitVec 24) : (blockHeader tag size).Keeps c.SameOutside := by
  unfold blockHeader
  split
  · exact Op.modify_keeps fun _ hs => hs.setHdr _
  · exact Op.raise_keeps _

theorem setBlockOffsets_framed (r0 r1 r2 : Word32) : (setBlockOffsets r0 r1 r2).Keeps c.SameOutside :=
  Op.modify_keeps fun _ hs => hs.setBlk _

theorem readUncompressedBody_framed : readUncompressedBody.Keeps c.SameOutside :=
  (onReader_framed _).andThen (readOffsetValues_framed.bind fun _ => setBlockOffsets_framed _ _ _)

theorem commitBlock_framed : commitBlock.Keeps c.SameOutside := by
  intro s a t hs h
  unfold commitBlock at h
  split at h <;> cases h
  exact hs.setBlk _

theorem readBody_framed : readBody.Keeps c.SameOutside := by
  intro s a t hs h
  unfold readBody at h
  split at h
  · exact readUncompressedBody_framed s a t hs h
  · exact readAlignedTree_framed.andThen readTables_framed s a t hs h
  · exact readTables_framed s a t hs h
  · cases h; exact hs

theorem readBlock_framed : readBlock.Keeps c.SameOutside :=
  (readHeader_framed.bind fun _ => blockHeader_framed _ _).andThen (readBody_framed.andThen commitBlock_framed)

/-! ### Chunks -/

theorem e8Flag_framed (bit : Nat) : (e8Flag bit).Keeps c.SameOutside := by
  unfold e8Flag
  split
  · exact Op.raise_keeps _
  · exact Op.pure_keeps _

theorem readE8_framed : readE8.Keeps c.SameOutside := ((readBits_framed 1).bind e8Flag_framed).ite (Op.pure_keeps ())

theorem startBlock_framed : startBlock.Keeps c.SameOutside :=
  have hpad : skipOwedPadByte.Keeps c.SameOutside := skipPadByte_framed.ite (Op.pure_keeps ())
  (hpad.andThen readBlock_framed).ite (Op.pure_keeps ())

theorem takeElement_framed (e : Element) : (takeElement e).Keeps c.SameOutside := takeElement_keeps (State.SameOutside.stable c) e

theorem chunkLoop_framed : ∀ n : Nat, (chunkLoop n).Keeps c.SameOutside
  | 0 => Op.pure_keeps ()
  | n + 1 =>
    have hpass : loopPass.Keeps c.SameOutside :=
      startBlock_framed.andThen ((decodeElement_keeps (State.SameOutside.stable c)).bind takeElement_framed)
    (hpass.andThen (chunkLoop_framed n)).ite (Op.pure_keeps ())

end

/-- The end of a chunk writes the output, the counters and the result only (R270, R271). -/
theorem finishChunk_status {c : State} : finishChunk.Keeps c.SameStatus := by
  intro s a t hs h
  cases h
  exact { hs with }

theorem Op.Keeps.status {α : Type} {m : Op α} (hm : ∀ c : State, m.Keeps c.SameOutside) {c : State} : m.Keeps c.SameStatus :=
  fun s a t hs h => hs.trans (hm s s a t (State.SameOutside.refl s) h).toSameStatus

theorem chunkBody_status (outputSize : Nat) {c : State} : (chunkBody outputSize).Keeps c.SameStatus :=
  (Op.Keeps.status fun _ => readE8_framed).andThen ((Op.Keeps.status fun _ => chunkLoop_framed outputSize).andThen finishChunk_status)

/-! ### Instructions -/

/-- Where the instruction answers a next state, it has written nothing outside the decoder, or has taken a fault. -/
def Contained (i : Instr) : Prop := ∀ s t, exec i s = .next t → s.SameOutside t ∨ ∃ k, t = takeFault k s

section
variable {i : Instr}

theorem Contained.of_run {m : Op Unit} (he : ∀ s t, exec i s = .next t → m.run s = .next t) (hm : ∀ c : State, m.Keeps c.SameOutside) :
    Contained i := by
  intro s t h
  rcases Op.run_next (he s t h) with hok | ⟨k, -, ht⟩
  · exact .inl (hm s s () t (State.SameOutside.refl s) hok)
  · exact .inr ⟨k, ht⟩

theorem Contained.of_runRet {α : Type} {m : Op α} {f : α → Returned} (he : ∀ s t, exec i s = .next t → m.runRet f s = .next t)
    (hm : ∀ c : State, m.Keeps c.SameOutside) : Contained i :=
  .of_run he fun c => (hm c).bind fun _ => Op.modify_keeps fun _ hs => hs.setRet _

/-- A guarded instruction that answers has passed its guard. -/
theorem passed {p : Prop} [Decidable p] {o o' : Outcome} {t : State} (h : (if p then o else o') = .next t) (ho : o' ≠ .next t) :
    o = .next t := by
  split at h
  · exact h
  · exact absurd h ho

theorem matchOffsetVerbatim_framed (slot : Nat) {c : State} : (matchOffsetVerbatim slot).Keeps c.SameOutside :=
  have hstable := State.SameOutside.stable c
  (setMatchSlot_keeps hstable slot).andThen <| (readBits_framed _).bind fun v =>
    (setRawOffsetBits_keeps hstable v).andThen (verbatimOffsetDone_keeps hstable)

theorem matchOffsetAligned_framed (slot : Nat) {c : State} : (matchOffsetAligned slot).Keeps c.SameOutside :=
  have hstable := State.SameOutside.stable c
  (setMatchSlot_keeps hstable slot).andThen <| (readBits_framed _).bind fun v =>
    (setRawOffsetBits_keeps hstable v).andThen ((decodeSymbol_framed .align).bind (alignedSymbol_keeps hstable))

theorem returnOffset_framed {m : Op Unit} {c : State} (hm : m.Keeps c.SameOutside) : (returnOffset m).Keeps c.SameOutside :=
  hm.andThen (Op.get_keeps _)

/-- Every instruction but the end of a chunk and the host commands is contained. -/
theorem contained (htail : i ≠ .chunkTail) (hconstruct : ∀ w, i ≠ .construct w) (hreset : i ≠ .reset)
    (hinto : ∀ data n, i ≠ .decompressChunkInto data n) (hchunk : ∀ data n, i ≠ .decompressChunk data n) : Contained i := by
  have hstable := State.SameOutside.stable
  cases i with
  | chunkTail => exact absurd rfl htail
  | construct w => exact absurd rfl (hconstruct w)
  | reset => exact absurd rfl hreset
  | decompressChunkInto data n => exact absurd rfl (hinto data n)
  | decompressChunk data n => exact absurd rfl (hchunk data n)
  | e8Clear => exact .of_run (m := e8Flag 0) (fun _ _ h => h) fun _ => e8Flag_framed 0
  | e8Set => exact .of_run (m := e8Flag 1) (fun _ _ h => h) fun _ => e8Flag_framed 1
  | blockInvalid0 size => exact .of_run (m := blockHeader 0 size) (fun _ _ h => h) fun _ => blockHeader_framed 0 size
  | blockVerbatim size => exact .of_run (m := blockHeader 1 size) (fun _ _ h => h) fun _ => blockHeader_framed 1 size
  | blockAligned size => exact .of_run (m := blockHeader 2 size) (fun _ _ h => h) fun _ => blockHeader_framed 2 size
  | blockUncompressed size => exact .of_run (m := blockHeader 3 size) (fun _ _ h => h) fun _ => blockHeader_framed 3 size
  | blockInvalid4 size => exact .of_run (m := blockHeader 4 size) (fun _ _ h => h) fun _ => blockHeader_framed 4 size
  | blockInvalid5 size => exact .of_run (m := blockHeader 5 size) (fun _ _ h => h) fun _ => blockHeader_framed 5 size
  | blockInvalid6 size => exact .of_run (m := blockHeader 6 size) (fun _ _ h => h) fun _ => blockHeader_framed 6 size
  | blockInvalid7 size => exact .of_run (m := blockHeader 7 size) (fun _ _ h => h) fun _ => blockHeader_framed 7 size
  | ptDelta0 | ptDelta1 | ptDelta2 | ptDelta3 | ptDelta4 | ptDelta5 | ptDelta6 | ptDelta7 | ptDelta8 | ptDelta9 | ptDelta10 | ptDelta11
  | ptDelta12 | ptDelta13 | ptDelta14 | ptDelta15 | ptDelta16 => exact .of_run (m := ptDelta _) (fun _ _ h => h) fun _ => ptDelta_framed _
  | ptZeroRunShort => exact .of_run (m := ptZeroRun 4 4) (fun _ _ h => h) fun _ => ptZeroRun_framed 4 4
  | ptZeroRunLong => exact .of_run (m := ptZeroRun 5 20) (fun _ _ h => h) fun _ => ptZeroRun_framed 5 20
  | ptSameRun => exact .of_run (m := ptSameRun) (fun _ _ h => h) fun _ => ptSameRun_framed
  | literal byte => exact .of_run (m := takeElement (.literal byte)) (fun _ _ h => h) fun _ => takeElement_framed _
  | lenHdr0 => exact .of_run (m := lengthHeader 0) (fun _ _ h => h) fun c => lengthHeader_keeps (hstable c) 0
  | lenHdr1 => exact .of_run (m := lengthHeader 1) (fun _ _ h => h) fun c => lengthHeader_keeps (hstable c) 1
  | lenHdr2 => exact .of_run (m := lengthHeader 2) (fun _ _ h => h) fun c => lengthHeader_keeps (hstable c) 2
  | lenHdr3 => exact .of_run (m := lengthHeader 3) (fun _ _ h => h) fun c => lengthHeader_keeps (hstable c) 3
  | lenHdr4 => exact .of_run (m := lengthHeader 4) (fun _ _ h => h) fun c => lengthHeader_keeps (hstable c) 4
  | lenHdr5 => exact .of_run (m := lengthHeader 5) (fun _ _ h => h) fun c => lengthHeader_keeps (hstable c) 5
  | lenHdr6 => exact .of_run (m := lengthHeader 6) (fun _ _ h => h) fun c => lengthHeader_keeps (hstable c) 6
  | lenHdr7 => exact .of_run (m := lengthHeader 7) (fun _ _ h => h) fun c => lengthHeader_keeps (hstable c) 7
  | lengthSymbol t =>
    exact .of_run (m := lengthSymbol t.toNat) (fun _ _ h => passed h nofun) fun c => setMatchLength_keeps (hstable c) _
  | alignedSymbol a => exact .of_run (m := alignedSymbol a.toNat) (fun _ _ h => h) fun c => alignedSymbol_keeps (hstable c) _
  | uncompressedRValues r0 r1 r2 => exact .of_run (m := setBlockOffsets r0 r1 r2) (fun _ _ h => h) fun _ => setBlockOffsets_framed r0 r1 r2
  | rawBytes =>
    exact .of_run (m := decodeUncompressed.bind takeElement) (fun _ _ h => h) fun c =>
      (decodeUncompressed_keeps (hstable c)).bind takeElement_framed
  | alignedLengths l => exact .of_run (m := setAlignedTree l) (fun _ _ h => h) fun _ => setAlignedTree_framed l
  | pretreeLengths l => exact .of_run (m := setPretree l) (fun _ _ h => h) fun _ => setPretree_framed l
  | footerBitsField => exact .of_run (m := footerField) (fun _ _ h => h) fun c => footerField_keeps (hstable c)
  | alignPadding | align => exact .of_run (m := align) (fun _ _ h => h) fun _ => onReader_framed _
  | padByte => exact .of_run (m := skipPadByte) (fun _ _ h => h) fun _ => skipPadByte_framed
  | brLoad data =>
    exact .of_run (m := Op.modify fun s => s.setBr (Reader.load data)) (fun _ _ h => h) fun _ => Op.modify_keeps fun _ hs => hs.setBr _
  | fetchWord => exact .of_run (m := fetchWord) (fun _ _ h => h) fun _ => onReader_framed _
  | readBits n => exact .of_runRet (m := readBits n) (fun _ _ h => passed h nofun) fun _ => readBits_framed n
  | peekBits n => exact .of_runRet (m := peekBits n) (fun _ _ h => passed h nofun) fun _ => onReader_framed _
  | readU32le => exact .of_runRet (m := readU32le) (fun _ _ h => h) fun _ => readU32le_framed
  | readU24be => exact .of_runRet (m := readU24be) (fun _ _ h => h) fun _ => readU24be_framed
  | readByte => exact .of_runRet (m := readByte) (fun _ _ h => h) fun _ => onReader_framed _
  | readBytes n => exact .of_runRet (m := readBytes n) (fun _ _ h => h) fun _ => onReader_framed _
  | readBytesInto n | copyFromBitstream n =>
    exact .of_run (m := copyFromBitstream n) (fun _ _ h => h) fun c => copyFromBitstream_keeps (hstable c) n
  | inputRemaining => exact .of_runRet (m := inputRemaining) (fun _ _ h => h) fun _ => Op.get_keeps _
  | buildTable k => exact .of_run (m := buildTable k) (fun _ _ h => h) fun _ => buildTable_framed k
  | decodeSymbol k => exact .of_runRet (m := decodeSymbol k) (fun _ _ h => h) fun _ => decodeSymbol_framed k
  | readPretree => exact .of_run (m := readPretree) (fun _ _ h => h) fun _ => readPretree_framed
  | updateRange t start stop =>
    exact .of_run (m := updateRange t start stop) (fun _ _ h => passed h nofun) fun _ => updateRange_framed t start stop
  | readTables => exact .of_run (m := readTables) (fun _ _ h => h) fun _ => readTables_framed
  | readAlignedTree => exact .of_run (m := readAlignedTree) (fun _ _ h => h) fun _ => readAlignedTree_framed
  | readBlock => exact .of_run (m := readBlock) (fun _ _ h => h) fun _ => readBlock_framed
  | readUncompressedBody => exact .of_run (m := readUncompressedBody) (fun _ _ h => h) fun _ => readUncompressedBody_framed
  | decodeElement => exact .of_runRet (m := decodeElement) (fun _ _ h => passed h nofun) fun c => decodeElement_keeps (hstable c)
  | decodeUncompressed => exact .of_runRet (m := decodeUncompressed) (fun _ _ h => h) fun c => decodeUncompressed_keeps (hstable c)
  | decodeCoded => exact .of_runRet (m := decodeCoded) (fun _ _ h => h) fun c => decodeCoded_keeps (hstable c)
  | matchLength lh => exact .of_runRet (m := matchLength lh.toNat) (fun _ _ h => h) fun c => matchLength_keeps (hstable c) _
  | matchOffsetSlot0 =>
    exact .of_runRet (m := returnOffset matchOffset0) (f := fun v => .num v.toNat) (fun _ _ h => h) fun c =>
      returnOffset_framed (matchOffset0_keeps (hstable c))
  | matchOffsetSlot1 =>
    exact .of_runRet (m := returnOffset matchOffset1) (f := fun v => .num v.toNat) (fun _ _ h => h) fun c =>
      returnOffset_framed (matchOffset1_keeps (hstable c))
  | matchOffsetSlot2 =>
    exact .of_runRet (m := returnOffset matchOffset2) (f := fun v => .num v.toNat) (fun _ _ h => h) fun c =>
      returnOffset_framed (matchOffset2_keeps (hstable c))
  | matchOffsetVerbatim slot | matchOffsetAlignedShort slot =>
    exact .of_runRet (m := returnOffset (matchOffsetVerbatim slot)) (fun _ _ h => passed h nofun) fun _ =>
      returnOffset_framed (matchOffsetVerbatim_framed slot)
  | matchOffsetAligned slot =>
    exact .of_runRet (m := returnOffset (matchOffsetAligned slot)) (fun _ _ h => passed h nofun) fun _ =>
      returnOffset_framed (matchOffsetAligned_framed slot)
  | pushOffset offset => exact .of_run (m := pushOffset offset) (fun _ _ h => h) fun c => pushOffset_keeps (hstable c) offset
  | push byte => exact .of_run (m := push byte) (fun _ _ h => h) fun c => push_keeps (hstable c) byte
  | copyFromSelf offset length =>
    exact .of_run (m := copyFromSelf offset length) (fun _ _ h => h) fun c => copyFromSelf_keeps (hstable c) offset length
  | pastView n => exact .of_runRet (m := pastView n) (fun _ _ h => passed h nofun) fun _ => Op.get_keeps _
  | _ lh => exact .of_run (m := matchSlot _ lh) (fun _ _ h => h) fun c => matchSlot_keeps (hstable c) _ lh

/-- A chunk command keeps the configuration and the host's side, whether it is refused, completes or faults (R263, R310). -/
theorem runChunk_status {data : List Byte} {outputSize : Nat} {wantBytes : Bool} {s t : State}
    (h : runChunk data outputSize wantBytes s = .next t) : s.SameStatus t ∨ ∃ k, t = takeFault k s := by
  have hstart : s.SameStatus (startChunk data outputSize wantBytes s) := ⟨rfl, rfl, rfl, rfl, rfl⟩
  unfold runChunk at h
  split at h
  · cases h
    exact .inl ⟨rfl, rfl, rfl, rfl, rfl⟩
  · rcases Op.run_next h with hok | ⟨k, -, rfl⟩
    · exact .inl (chunkBody_status outputSize _ () t hstart hok)
    · exact .inr ⟨k, hstart.takeFault k⟩

/-- Every instruction but `construct` and `reset` keeps the configuration and the host's side, and leaves `FAULT.*` or takes a fault. -/
theorem exec_status {s t : State} (h : exec i s = .next t) (hconstruct : ∀ w, i ≠ .construct w) (hreset : i ≠ .reset) :
    s.SameStatus t ∨ ∃ k, t = takeFault k s := by
  by_cases hinto : ∃ data n, i = .decompressChunkInto data n
  · obtain ⟨data, n, rfl⟩ := hinto
    exact runChunk_status h
  by_cases hchunk : ∃ data n, i = .decompressChunk data n
  · obtain ⟨data, n, rfl⟩ := hchunk
    exact runChunk_status h
  by_cases htail : i = .chunkTail
  · subst htail
    exact .inl (finishChunk_status s () t (State.SameOutside.refl s).toSameStatus (by cases h; rfl))
  · have hcontained : Contained i :=
      contained htail hconstruct hreset (fun data n he => hinto ⟨data, n, he⟩) fun data n he => hchunk ⟨data, n, he⟩
    exact (hcontained s t h).imp_left State.SameOutside.toSameStatus

end

/-- Settles O13: `reset` starts again with the same configuration; every other instruction keeps it or enters a fault, which keeps it too. -/
theorem configurationIsFixed : Obligations.ConfigurationIsFixed := by
  intro i s t h hconstruct
  by_cases hreset : i = .reset
  · subst hreset
    have hexec : execReset s = .next t := h
    unfold execReset at hexec
    split at hexec
    · next hc => cases hexec; exact ⟨rfl, hc.symm, rfl⟩
    · cases hexec; exact ⟨rfl, rfl, rfl⟩
  · rcases exec_status h hconstruct hreset with hs | ⟨k, rfl⟩
    · exact ⟨hs.cfg, hs.constructed, hs.host⟩
    · exact ⟨rfl, rfl, rfl⟩

/-- Settles O14: no operation writes `FAULT.*` or draws a free value; a fault, wherever it is raised, is entered from the state before. -/
theorem faultStatusOnlyFromFaultEntry : Obligations.FaultStatusOnlyFromFaultEntry := by
  intro i s t h hconstruct hreset
  exact (exec_status h hconstruct hreset).imp_left fun hs => ⟨hs.fault, hs.freeCtr⟩

/-- Settles O16: an instruction that completes has drawn no free value, so it has not taken a fault, and it is contained. -/
theorem outputOnlyAtCompletion : Obligations.OutputOnlyAtCompletion := by
  rintro i s t ⟨h, hfree⟩ htail hconstruct hreset hinto hchunk
  rcases contained htail hconstruct hreset hinto hchunk s t h with hs | ⟨k, rfl⟩
  · exact ⟨hs.out, hs.chunkOffset, hs.decodedChunks, hs.result⟩
  · exact absurd hfree (Nat.succ_ne_self s.freeCtr)

end Sys2Proof.Machine
end

section
/-! Every step keeps the invariant (R31, R37, R38, R39, R46, R346, R347): at each place of a running command, what the instruction read there
and the move after it leave. -/

namespace Sys2Proof.Machine

section
variable {s t u v : State}

/-! ### Moves -/

theorem goTo_ok {p : Phase} (h : goTo p s = .ok () t) : t = s.setPhase p := by
  cases h
  rfl

/-- No bits are pending while an Uncompressed block is decoded (R346). -/
def State.ByteAligned (s : State) : Prop := s.blk.kind = .uncompressed → s.br.bitsLeft = 0

theorem State.padOwed_kind (h : s.padOwed = true) : s.blk.kind = .uncompressed := by
  unfold State.padOwed at h
  simp only [Bool.and_eq_true, beq_iff_eq] at h
  exact h.1

/-- The loop test and the start of a block lead to a place that fits (R263, R266, R267). -/
theorem State.Steady.inv_loopPhase (h : s.Steady 0) (hset : s.SettledAt .element) (ha : s.ByteAligned) :
    (s.setPhase s.loopPhase).Inv := by
  unfold State.loopPhase
  split
  · split
    · split
      · next hpad => exact h.inv_setPhase (p := .padByte) hset trivial (ha (s.padOwed_kind hpad))
      · exact h.inv_setPhase (p := .header) hset trivial trivial
    · next hmore =>
      have hdebt : 0 < s.blk.remaining := Nat.pos_of_ne_zero fun h0 => hmore (by simp [State.blockExhausted, h0])
      exact h.inv_setPhase (p := .element) hset trivial ⟨hdebt, ha⟩
  · exact h.inv_setPhase (p := .tail) hset trivial trivial

/-- The end of a block body (R201, R206). -/
theorem State.Steady.inv_endBody (h : s.Steady 0) (hset : s.SettledAt .element) (hkind : s.hdr.kind ≠ .none)
    (ha : s.hdr.kind = .uncompressed → s.br.bitsLeft = 0) (hend : endBody s = .ok () t) : t.Inv := by
  obtain ⟨_, u, hc, hg⟩ := Op.andThen_ok_iff.1 hend
  unfold commitBlock at hc
  split at hc
  · cases hc
  · next hsize =>
    cases hc
    rw [goTo_ok hg]
    have hblock : ({ s.blk with kind := s.hdr.kind, size := s.hdr.size, remaining := s.hdr.size } : Block).Sound :=
      ⟨Nat.le_refl _, h.header, fun hk => absurd hk hkind⟩
    exact (h.setBlk hblock).inv_setPhase (p := .element) (hset.of_tables (fun k => State.setBlk_table s k _) fun _ hu => hu) trivial
      ⟨Nat.pos_of_ne_zero hsize, ha⟩

/-! ### Table updates (R180 to R188) -/

/-- The registers of the range update of a block body (R181, R188). -/
def State.Updating (s : State) (stage : UpdateStage) : Prop :=
  s.upd.target = stageTarget stage ∧ s.upd.stop = stageStop s.cfg.positionSlots stage

theorem buildTable_ok {k : TableKind} (h : buildTable k s = .ok () t) : ∃ w, (s.table k).build k = .ok w ∧ t = s.setTable k w := by
  rcases buildTable_cases k s with ⟨w, hw, hb⟩ | ⟨e, -, hb⟩ <;> rw [hb] at h <;> cases h
  exact ⟨w, hw, rfl⟩

/-- Building a table of a steady core leaves it sound, and settled. -/
theorem State.Steady.build (h : s.Steady 0) {p p' : Phase} (hset : s.SettledAt p) {k : TableKind}
    (hp : ∀ j, j ≠ k → p'.updates j = false → p.updates j = false) (hb : buildTable k s = .ok () t) :
    t.Steady 0 ∧ t.SettledAt p' ∧ ∃ w, t = s.setTable k w := by
  obtain ⟨w, hw, rfl⟩ := buildTable_ok hb
  exact ⟨h.setTable ((h.tables k).build hw), hset.setTable (fun hpres _ => (h.tables k).build_settled hw hpres) hp, w, rfl⟩

/-- After the pretree lengths and after each pretree symbol (R181, R188). -/
theorem State.Steady.inv_afterSymbol {stage : UpdateStage} (h : s.Steady 0) (hset : s.SettledAt (.pretreeSym stage))
    (hkind : s.hdr.kind = .verbatim ∨ s.hdr.kind = .aligned) (hupd : s.Updating stage) (ha : afterSymbol stage s = .ok () t) : t.Inv := by
  unfold afterSymbol at ha
  split at ha
  · next hpos =>
    rw [goTo_ok ha]
    exact h.inv_setPhase (p := .pretreeSym stage) hset hkind ⟨hupd.1, hupd.2, hpos⟩
  · match stage, ha with
    | .literals, ha =>
      rw [goTo_ok ha]
      exact h.inv_setPhase (p := .pretreeLens .matches) (hset.of_tables (fun _ => rfl) (fun k => by cases k <;> decide)) hkind trivial
    | .matches, ha =>
      obtain ⟨_, u, hb, hg⟩ := Op.andThen_ok_iff.1 ha
      obtain ⟨hu, hsetu, w, rfl⟩ := h.build (p' := .pretreeLens .lengths) hset (fun k => by cases k <;> decide) hb
      rw [goTo_ok hg]
      exact hu.inv_setPhase (p := .pretreeLens .lengths) hsetu (by rw [State.setTable_hdr]; exact hkind) trivial
    | .lengths, ha =>
      obtain ⟨_, u, hb, he⟩ := Op.andThen_ok_iff.1 ha
      obtain ⟨hu, hsetu, w, rfl⟩ := h.build (p' := .element) hset (fun k => by cases k <;> decide) hb
      refine hu.inv_endBody hsetu ?_ ?_ he <;> rw [State.setTable_hdr]
      · rcases hkind with hk | hk <;> simp [hk]
      · rcases hkind with hk | hk <;> simp [hk]

/-! ### A pretree symbol (R182 to R187) -/

@[simp] theorem State.writeRun_phase (s : State) (value run : Nat) : (s.writeRun value run).phase = s.phase := by
  simp [State.writeRun_eq, State.setUpdLens]

@[simp] theorem State.writeRun_hdr (s : State) (value run : Nat) : (s.writeRun value run).hdr = s.hdr := by
  simp [State.writeRun_eq, State.setUpdLens]

theorem whileUpdating_eq_ok {m : Op Unit} (h : whileUpdating m s = .ok () t) : m s = .ok () t := by
  unfold whileUpdating at h
  split at h
  · exact h
  · cases h

theorem writeRunChecked_ok {value run : Nat} (h : writeRunChecked value run s = .ok () t) : t = s.writeRun value run := by
  rcases writeRunChecked_cases value run s with ⟨-, hw⟩ | ⟨-, hw⟩ <;> rw [hw] at h <;> cases h
  rfl

/-- A pretree symbol that completes reads its fields, then writes one run of a length up to 16. -/
theorem pretreeSymbol_ok {sym : Nat} (h : pretreeSymbol sym s = .ok () t) :
    ∃ q value run, t = (s.setBr q).writeRun value run ∧ value ≤ 16 ∧ (s.br.Within 0 → q.Within 0) := by
  have hzero {bits base : Nat} (h : ptZeroRun bits base s = .ok () t) :
      ∃ q value run, t = (s.setBr q).writeRun value run ∧ value ≤ 16 ∧ (s.br.Within 0 → q.Within 0) := by
    obtain ⟨z, u, hr, hw⟩ := Op.bind_ok_iff.1 (whileUpdating_eq_ok h)
    obtain ⟨hn, -, q, rfl, ha⟩ := readBits_ok hr
    exact ⟨q, 0, _, writeRunChecked_ok hw, Nat.zero_le _, fun hs => hs.advanced ha hn⟩
  unfold pretreeSymbol at h
  split_ifs at h
  · cases whileUpdating_eq_ok h
    exact ⟨s.br, _, 1, rfl, deltaLength_le _ _, id⟩
  · exact hzero h
  · exact hzero h
  · obtain ⟨same, u, hr, h⟩ := Op.bind_ok_iff.1 (whileUpdating_eq_ok h)
    obtain ⟨hn, -, q, rfl, ha⟩ := readBits_ok hr
    obtain ⟨code, u, hc, hw⟩ := Op.bind_ok_iff.1 h
    obtain ⟨code', u', hd, hc⟩ := Op.bind_ok_iff.1 hc
    obtain ⟨-, -, hn', q', rfl, ha'⟩ := decodeSymbol_ok hd
    split at hc
    · cases hc
    · cases hc
      exact ⟨q', _, _, writeRunChecked_ok hw, deltaLength_le _ _, fun hs => (hs.advanced ha hn).advanced ha' hn'⟩
  · cases h

/-! ### Elements (R207 to R219, R268, R269) -/

theorem Block.Sound.spend {b : Block} (h : b.Sound) (n : Nat) : ({ b with remaining := b.remaining - n } : Block).Sound :=
  ⟨(Nat.sub_le _ n).trans h.debt, h.size, fun hk => by simp [h.owed hk]⟩

/-- What decoding an element keeps of the state `c` it started in. -/
structure Coding (c s : State) : Prop where
  steady : s.Steady 0
  phase : s.phase = c.phase
  kind : s.blk.kind = c.blk.kind
  table : ∀ k, s.table k = c.table k

theorem Coding.stable (c : State) : DecodeStable (Coding c) where
  br h hq := { h with steady := h.steady.setBr (hq h.steady.reader) }
  rep v h := { h with steady := h.steady.setRep v }
  elt v h := { h with steady := h.steady.setElt v }
  win h hw := { h with steady := h.steady.setWin (hw h.steady.window) }
  spend n h := { h with steady := (h.steady.setBlk (h.steady.block.spend n)).setCmd h.steady.output }

/-- After an element, decoded from a place of the loop, the loop goes on (R263, R266). -/
theorem Coding.inv_loopPhase {c : State} (h : Coding c s) (hset : c.SettledAt .element) (ha : s.ByteAligned) :
    (s.setPhase s.loopPhase).Inv :=
  h.steady.inv_loopPhase (hset.of_tables h.table fun _ hu => hu) ha

/-- Raw bytes are taken without touching the pending bits (R138, R346). -/
theorem takeElement_bulkRead_bitsLeft {n : Nat} (h : takeElement (.bulkRead n) s = .ok () t) : t.br.bitsLeft = s.br.bitsLeft := by
  obtain ⟨_, u, happly, haccount⟩ := Op.andThen_ok_iff.1 h
  have hu : u.br.bitsLeft = s.br.bitsLeft := by
    by_cases hn : s.br.bytePos + n ≤ s.br.len
    · rw [applyElement, copyFromBitstream_ok hn] at happly
      cases happly
      rfl
    · rw [applyElement, copyFromBitstream, Op.bind_of_raise (readBytes_raise (Nat.not_le.1 hn))] at happly
      cases happly
  rcases account_cases (Element.bulkRead n).length u with ⟨-, hc⟩ | ⟨-, hc⟩ <;> rw [hc] at haccount <;> cases haccount
  exact hu

theorem decodeUncompressed_ok {e : Element} (h : decodeUncompressed s = .ok e t) :
    t = s.setRep ⟨s.blk.r0, s.blk.r1, s.blk.r2⟩ ∧ ∃ n, e = .bulkRead n := by
  obtain ⟨_, u, hc, hr⟩ := Op.andThen_ok_iff.1 h
  cases hc
  split at hr <;> cases hr
  exact ⟨rfl, _, rfl⟩

/-- An element of an Uncompressed block leaves no bits pending (R208, R346). -/
theorem rawElement_bitsLeft (h : (decodeUncompressed.bind takeElement) s = .ok () t) : t.br.bitsLeft = s.br.bitsLeft := by
  obtain ⟨e, u, hd, ht⟩ := Op.bind_ok_iff.1 h
  obtain ⟨rfl, n, rfl⟩ := decodeUncompressed_ok hd
  have ht' := takeElement_bulkRead_bitsLeft ht
  exact ht'

/-! ### Lengths read from the stream (R180, R189) -/

theorem pretreeLens_le (l : BitVec 80) : ∀ L ∈ (List.range nPre).map (pretreeLenField l), L ≤ longestCode .pre := by
  intro L hL
  obtain ⟨k, -, rfl⟩ := List.mem_map.1 hL
  exact Nat.le_of_lt_succ (l.extractLsb' (76 - 4 * k) 4).isLt

theorem alignedLens_le (l : BitVec 24) : ∀ L ∈ (List.range nAlign).map (alignedLenField l), L ≤ longestCode .align := by
  intro L hL
  obtain ⟨k, -, rfl⟩ := List.mem_map.1 hL
  exact Nat.le_of_lt_succ (l.extractLsb' (21 - 3 * k) 3).isLt

/-- New lengths and the table built from them keep the core steady, and the table is settled. -/
theorem State.Steady.rebuild (h : s.Steady 0) {p : Phase} (hset : s.SettledAt p) {k : TableKind} {lens : List Nat}
    (hl : lens.length = symbolCount s.cfg.positionSlots k) (hs : ∀ L ∈ lens, L ≤ longestCode k)
    (hb : buildTable k (s.setTable k { s.table k with lens := lens }) = .ok () t) :
    t.Steady 0 ∧ t.SettledAt p ∧ ∃ w, t = s.setTable k w := by
  have hsound := (h.tables k).setLens hl hs
  obtain ⟨w, hw, rfl⟩ := buildTable_ok hb
  rw [State.setTable_table_same] at hw
  have htwice : (s.setTable k { s.table k with lens := lens }).setTable k w = s.setTable k w := by cases k <;> rfl
  rw [htwice]
  exact ⟨h.setTable (hsound.build hw), hset.setTable (fun hpres _ => hsound.build_settled hw hpres) fun _ _ hu => hu, w, rfl⟩

/-! ### Fields read -/

/-- An operation that takes `n` bits where they are there, and faults where they are not, has taken them where it completes. -/
theorem taken_of_ok {α : Type} {m : Op α} {n : Nat} {a b : α} {k : FaultKind}
    (hle : n ≤ s.br.stream.length → ∃ q, m s = .ok a (s.setBr q) ∧ s.br.Advanced q n) (hlt : s.br.stream.length < n → m s = .raise k)
    (h : m s = .ok b t) : ∃ q, t = s.setBr q ∧ s.br.Advanced q n ∧ n ≤ s.br.stream.length := by
  rcases Nat.lt_or_ge s.br.stream.length n with hn | hn
  · rw [hlt hn] at h
    cases h
  · obtain ⟨q, hq, ha⟩ := hle hn
    rw [hq] at h
    cases h
    exact ⟨q, rfl, ha, hn⟩

/-! ### Each place -/

section
variable (h : s.Inv)
include h

theorem State.Inv.steady_at {p : Phase} (hp : s.phase = p) (hidle : p ≠ .idle) : s.Steady p.overhang := by
  subst hp
  exact h.steady hidle

theorem State.Inv.settled_at {p : Phase} (hp : s.phase = p) (hidle : p ≠ .idle) : s.SettledAt p := by
  subst hp
  exact h.settled (h.live hidle)

theorem State.Inv.body_at {p : Phase} (hp : s.phase = p) (hidle : p ≠ .idle) : p.bodyFits s.hdr.kind := by
  subst hp
  exact h.body (h.live hidle)

theorem State.Inv.fits_at {p : Phase} (hp : s.phase = p) (hidle : p ≠ .idle) : (s.setPhase p).PhaseFits := by
  subst hp
  exact h.place (h.live hidle)

theorem State.Inv.after_e8 {w bit : Nat} (hp : s.phase = .e8) (hr : readBits 1 s = .ok w u) (hm : e8Flag bit u = .ok () v)
    (ha : advance v = .ok () t) : t.Inv := by
  obtain ⟨hn, -, q, rfl, hq⟩ := readBits_ok hr
  have hsteady := h.steady_at hp (by simp)
  have hset : s.SettledAt .e8 := h.settled_at hp (by simp)
  have hkind : s.blk.kind = .none := h.fits_at hp (by simp)
  have hv : v = s.setBr q := by
    unfold e8Flag at hm
    split at hm <;> cases hm
    rfl
  subst hv
  simp only [advance, State.setBr_phase, hp] at ha
  rw [goTo_ok ha]
  exact (hsteady.setBr (hsteady.reader.advanced hq hn)).inv_loopPhase hset fun hu => by
    rw [State.setBr_blk, hkind] at hu
    cases hu

theorem State.Inv.after_padByte (hp : s.phase = .padByte) (hm : skipPadByte s = .ok () v) (ha : advance v = .ok () t) : t.Inv := by
  obtain ⟨b, u, hr, hm⟩ := Op.bind_ok_iff.1 hm
  obtain ⟨q, hq, rfl⟩ := onReader_ok hr
  cases hm
  have hsteady := h.steady_at hp (by simp)
  have hset : s.SettledAt .padByte := h.settled_at hp (by simp)
  simp only [advance, State.setBr_phase, hp] at ha
  rw [goTo_ok ha]
  exact (hsteady.setBr (hsteady.reader.readByte hq)).inv_setPhase (p := .header) hset trivial trivial

theorem State.Inv.after_header {w : Nat × BitVec 24} {tag : Nat} {size : BitVec 24} (hp : s.phase = .header)
    (hr : readHeader s = .ok w u) (hm : blockHeader tag size u = .ok () v) (ha : advance v = .ok () t) : t.Inv := by
  obtain ⟨q, rfl, hq, hn⟩ := taken_of_ok readHeader_of_le readHeader_of_lt hr
  have hsteady := h.steady_at hp (by simp)
  have hread := hsteady.setBr (hsteady.reader.advanced hq hn)
  have hset : s.SettledAt .header := h.settled_at hp (by simp)
  rw [blockHeader] at hm
  cases hkind : tagKind tag with
  | none => rw [hkind] at hm; cases hm
  | some kind =>
    rw [hkind] at hm
    cases hm
    have hv := hread.setHdr (hdr := ⟨kind, size.toNat⟩) size.isLt
    simp only [advance, State.setHdr_phase, State.setBr_phase, hp] at ha
    rw [goTo_ok ha]
    match kind with
    | .uncompressed => exact hv.inv_setPhase (p := .alignPad) hset rfl trivial
    | .aligned => exact hv.inv_setPhase (p := .alignedLens) hset rfl trivial
    | .verbatim => exact hv.inv_setPhase (p := .pretreeLens .literals) hset (.inl rfl) trivial
    | .none => exact hv.inv_setPhase (p := .header) hset trivial trivial

theorem State.Inv.after_alignPad (hp : s.phase = .alignPad) (hm : Machine.align s = .ok () v) (ha : advance v = .ok () t) : t.Inv := by
  cases hm
  have hsteady := h.steady_at hp (by simp)
  have hset : s.SettledAt .alignPad := h.settled_at hp (by simp)
  have hkind : s.hdr.kind = .uncompressed := h.body_at hp (by simp)
  simp only [advance, State.setBr_phase, hp] at ha
  rw [goTo_ok ha]
  exact (hsteady.setBr hsteady.reader.align).inv_setPhase (p := .rValues) hset hkind s.br.align_bitsLeft

theorem State.Inv.after_rValues {w : Word32 × Word32 × Word32} {r0 r1 r2 : Word32} (hp : s.phase = .rValues)
    (hr : readOffsetValues s = .ok w u) (hm : setBlockOffsets r0 r1 r2 u = .ok () v) (ha : advance v = .ok () t) : t.Inv := by
  obtain ⟨q, rfl, hq, hn⟩ := taken_of_ok readOffsetValues_of_le readOffsetValues_of_lt hr
  cases hm
  have hsteady := h.steady_at hp (by simp)
  have hset : s.SettledAt .rValues := h.settled_at hp (by simp)
  have hkind : s.hdr.kind = .uncompressed := h.body_at hp (by simp)
  obtain ⟨hwithin, hbits⟩ := hsteady.reader.advanced_rValues (h.fits_at hp (by simp)) hq hn
  have hv := (hsteady.setBr hwithin).setBlk (b := { s.blk with r0 := r0, r1 := r1, r2 := r2 }) { hsteady.block with }
  simp only [advance, State.setBlk_phase, State.setBr_phase, hp] at ha
  exact hv.inv_endBody hset (by simp [hkind]) (fun _ => hbits) ha

theorem State.Inv.after_alignedLens {l l' : BitVec 24} (hp : s.phase = .alignedLens) (hr : readAlignedField s = .ok l' u)
    (hm : setAlignedTree l u = .ok () v) (ha : advance v = .ok () t) : t.Inv := by
  obtain ⟨q, rfl, hq, hn⟩ := taken_of_ok readAlignedField_of_le readAlignedField_of_lt hr
  obtain ⟨_, u, hmod, hb⟩ := Op.andThen_ok_iff.1 hm
  cases hmod
  have hsteady := h.steady_at hp (by simp)
  have hread := hsteady.setBr (hsteady.reader.advanced hq hn)
  have hkind : s.hdr.kind = .aligned := h.body_at hp (by simp)
  obtain ⟨hv, hset, x, rfl⟩ := hread.rebuild (h.settled_at hp (by simp)) (k := .align) (by simp [symbolCount]) (alignedLens_le l) hb
  simp only [advance, State.setTable_phase, State.setBr_phase, hp] at ha
  rw [goTo_ok ha]
  exact hv.inv_setPhase (p := .pretreeLens .literals) hset (.inr hkind) trivial

theorem State.Inv.after_pretreeLens {stage : UpdateStage} {l l' : BitVec 80} (hp : s.phase = .pretreeLens stage)
    (hr : readPretreeField s = .ok l' u) (hm : setPretree l u = .ok () v) (ha : advance v = .ok () t) : t.Inv := by
  obtain ⟨q, rfl, hq, hn⟩ := taken_of_ok readPretreeField_of_le readPretreeField_of_lt hr
  obtain ⟨_, u, hmod, hb⟩ := Op.andThen_ok_iff.1 hm
  cases hmod
  have hsteady := h.steady_at hp (by simp)
  have hread := hsteady.setBr (hsteady.reader.advanced hq hn)
  have hkind : s.hdr.kind = .verbatim ∨ s.hdr.kind = .aligned := h.body_at hp (by simp)
  obtain ⟨hv, hset, x, rfl⟩ := hread.rebuild (h.settled_at hp (by simp)) (k := .pre) (by simp [symbolCount]) (pretreeLens_le l) hb
  simp only [advance, State.setTable_phase, State.setBr_phase, hp] at ha
  obtain ⟨_, u, hu, ha⟩ := Op.andThen_ok_iff.1 ha
  cases hu
  have hsym : ∀ k, (Phase.pretreeSym stage).updates k = false → (Phase.pretreeLens stage).updates k = false := fun k => by
    cases stage <;> cases k <;> decide
  have hbegun := hv.setUpd ⟨stageTarget stage, stageStart stage, stageStop s.cfg.positionSlots stage⟩
  exact hbegun.inv_afterSymbol (hset.of_tables (fun _ => rfl) hsym) hkind ⟨rfl, rfl⟩ ha

theorem State.Inv.after_pretreeSym {stage : UpdateStage} {sym : Nat} (hp : s.phase = .pretreeSym stage)
    (hr : decodeSymbol .pre s = .ok sym u) (hm : pretreeSymbol sym u = .ok () v) (ha : advance v = .ok () t) : t.Inv := by
  obtain ⟨-, -, hn, q, rfl, hq⟩ := decodeSymbol_ok hr
  obtain ⟨p, value, run, rfl, hvalue, hwithin⟩ := pretreeSymbol_ok hm
  have hsteady := h.steady_at hp (by simp)
  have hv := (hsteady.setBr (hwithin (hsteady.reader.advanced hq hn))).writeRun hvalue run
  have hkind : s.hdr.kind = .verbatim ∨ s.hdr.kind = .aligned := h.body_at hp (by simp)
  obtain ⟨htarget, hstop, -⟩ :
      s.upd.target = stageTarget stage ∧ s.upd.stop = stageStop s.cfg.positionSlots stage ∧ s.upd.pos < s.upd.stop :=
    h.fits_at hp (by simp)
  have hset : ((s.setBr p).writeRun value run).SettledAt (.pretreeSym stage) := by
    have hold : (s.setBr p).SettledAt (.pretreeSym stage) := h.settled_at hp (by simp)
    refine (hold.setTable (fun _ hu => ?_) fun _ _ hu => hu).of_tables (fun _ => rfl) fun _ hu => hu
    rw [State.setBr_upd, htarget] at hu
    cases stage <;> cases hu
  simp only [advance, State.writeRun_phase, State.setBr_phase, hp] at ha
  exact hv.inv_afterSymbol hset (by rw [State.writeRun_hdr]; exact hkind) ⟨htarget, by simpa using hstop⟩ ha

/-- After an element of a block, coded or raw (R207). -/
theorem State.Inv.after_element {m : Op Unit} (hp : s.phase = .element) (hr : Coding s u) (hk : m.Keeps (Coding s))
    (hb : v.ByteAligned) (hm : m u = .ok () v) (ha : advance v = .ok () t) : t.Inv := by
  have hv : Coding s v := hk u () v hr hm
  simp only [advance, hv.phase, hp] at ha
  rw [goTo_ok ha]
  exact hv.inv_loopPhase (h.settled_at hp (by simp)) hb

theorem State.Inv.coding (hp : s.phase = .element) : Coding s s := ⟨h.steady_at hp (by simp), rfl, rfl, fun _ => rfl⟩

theorem State.Inv.after_rawElement (hp : s.phase = .element) (hkind : s.blk.kind = .uncompressed)
    (hm : (decodeUncompressed.bind takeElement) s = .ok () v) (ha : advance v = .ok () t) : t.Inv := by
  have hbits : 0 < s.blk.remaining ∧ (s.blk.kind = .uncompressed → s.br.bitsLeft = 0) := h.fits_at hp (by simp)
  exact h.after_element hp (h.coding hp)
    ((decodeUncompressed_keeps (Coding.stable s)).bind fun e => takeElement_keeps (Coding.stable s) e)
    (fun _ => (rawElement_bitsLeft hm).trans (hbits.2 hkind)) hm ha

theorem State.Inv.after_codedElement {m : Op Unit} {sym : Nat} (hp : s.phase = .element) (hkind : s.blk.kind ≠ .uncompressed)
    (hr : decodeSymbol .main s = .ok sym u) (hk : m.Keeps (Coding s)) (hm : m u = .ok () v) (ha : advance v = .ok () t) : t.Inv := by
  have hu : Coding s u := decodeSymbol_keeps (Coding.stable s) .main s sym u (h.coding hp) hr
  exact h.after_element hp hu hk (fun hv => absurd ((hk u () v hu hm).kind.symm.trans hv) hkind) hm ha

/-- The chunk completes: `decodedChunks` is at least 1, so no E8 bit is due in the next one (R43, R265, R271). -/
theorem State.Inv.after_tail (hp : s.phase = .tail) (hm : finishChunk s = .ok () v) (ha : advance v = .ok () t) : t.Inv := by
  cases hm
  have hsteady := h.steady_at hp (by simp)
  simp only [advance, hp] at ha
  rw [goTo_ok ha]
  have hset : s.SettledAt .tail := h.settled_at hp (by simp)
  have hcount : countChunk s.decodedChunks < 2 ^ 32 ∧ countChunk s.decodedChunks ≠ 0 := by
    unfold countChunk Config.chunkCountMax
    omega
  exact State.Steady.inv_setPhase (p := .idle) { hsteady with chunks := hcount.1 } hset trivial
    fun h0 => absurd h0 hcount.2

/-- The move after an instruction of a running command that completes leads to a state of the invariant. -/
theorem State.Inv.after_fetched {m : Op Unit} (hf : Fetched s m u) (hm : m u = .ok () v) (ha : advance v = .ok () t) : t.Inv := by
  cases hf with
  | e8 place read bit => exact h.after_e8 place read hm ha
  | padByte place => exact h.after_padByte place hm ha
  | header place read tag size => exact h.after_header place read hm ha
  | alignPad place => exact h.after_alignPad place hm ha
  | rValues place read r0 r1 r2 => exact h.after_rValues place read hm ha
  | alignedLens place read l => exact h.after_alignedLens place read hm ha
  | pretreeLens place read l => exact h.after_pretreeLens place read hm ha
  | pretreeSym place read => exact h.after_pretreeSym place read hm ha
  | raw place kind => exact h.after_rawElement place kind hm ha
  | literal place kind read b => exact h.after_codedElement place kind read (takeElement_keeps (Coding.stable s) _) hm ha
  | matched place kind read slot lh => exact h.after_codedElement place kind read (matchSlot_keeps (Coding.stable s) slot lh) hm ha
  | tail place => exact h.after_tail place hm ha

end

/-! ### Faults of a running command -/

/-- Reading an instruction moves the reader only. -/
theorem Fetched.read_only {m : Op Unit} (hf : Fetched s m u) : ∃ q, u = s.setBr q := by
  cases hf with
  | e8 place read bit => obtain ⟨-, -, q, rfl, -⟩ := readBits_ok read; exact ⟨q, rfl⟩
  | header place read tag size => obtain ⟨q, rfl, -⟩ := taken_of_ok readHeader_of_le readHeader_of_lt read; exact ⟨q, rfl⟩
  | rValues place read r0 r1 r2 => obtain ⟨q, rfl, -⟩ := taken_of_ok readOffsetValues_of_le readOffsetValues_of_lt read; exact ⟨q, rfl⟩
  | alignedLens place read l => obtain ⟨q, rfl, -⟩ := taken_of_ok readAlignedField_of_le readAlignedField_of_lt read; exact ⟨q, rfl⟩
  | pretreeLens place read l => obtain ⟨q, rfl, -⟩ := taken_of_ok readPretreeField_of_le readPretreeField_of_lt read; exact ⟨q, rfl⟩
  | pretreeSym place read | literal place kind read b | matched place kind read slot lh =>
    obtain ⟨-, -, -, q, rfl, -⟩ := decodeSymbol_ok read
    exact ⟨q, rfl⟩
  | padByte place | alignPad place | raw place kind | tail place => exact ⟨s.br, rfl⟩

theorem Fetched.framed {m : Op Unit} (hf : Fetched s m u) {c : State} : m.Keeps c.SameStatus := by
  have hstable := State.SameOutside.stable
  cases hf with
  | e8 place read bit => exact .status fun _ => e8Flag_framed bit
  | padByte place => exact .status fun _ => skipPadByte_framed
  | header place read tag size => exact .status fun _ => blockHeader_framed tag size
  | alignPad place => exact .status fun _ => onReader_framed _
  | rValues place read r0 r1 r2 => exact .status fun _ => setBlockOffsets_framed r0 r1 r2
  | alignedLens place read l => exact .status fun _ => setAlignedTree_framed l
  | pretreeLens place read l => exact .status fun _ => setPretree_framed l
  | pretreeSym place read => exact .status fun _ => pretreeSymbol_framed _
  | raw place kind => exact .status fun c => (decodeUncompressed_keeps (hstable c)).bind takeElement_framed
  | literal place kind read b => exact .status fun _ => takeElement_framed _
  | matched place kind read slot lh => exact .status fun c => matchSlot_keeps (hstable c) slot lh
  | tail place => exact finishChunk_status

/-- A fault of a step, wherever it is raised, leaves the state that one at the start of the step would (R313). -/
theorem Fetched.takeFault {m : Op Unit} (hf : Fetched s m u) (k : FaultKind) :
    takeFault k u = takeFault k s ∧ ∀ v, m u = .ok () v → takeFault k v = takeFault k s := by
  obtain ⟨q, rfl⟩ := hf.read_only
  have hread : s.SameStatus (s.setBr q) := ((State.SameOutside.refl s).setBr q).toSameStatus
  exact ⟨hread.takeFault k, fun v hm => (hf.framed _ () v hread hm).takeFault k⟩

/-! ### Host commands -/

theorem State.Inv.setResult (h : s.Inv) (r : HostResult) : (s.setResult r).Inv where
  legal := h.legal
  window := h.window
  lens k := by rw [State.setResult_table]; exact h.lens k
  bits := h.bits
  cursor := h.cursor
  block := h.block
  header := h.header
  chunks := h.chunks
  rest := h.rest
  output := h.output
  input := h.input
  filled hl k := by rw [State.setResult_table]; exact h.filled hl k
  settled hl k := by rw [State.setResult_table]; exact h.settled hl k
  owed := h.owed
  body := h.body
  place := h.place

/-- The waiting commands are no part of the invariant. -/
theorem State.Inv.withHost (h : s.Inv) (rest : List HostCommand) : ({ s with host := rest } : State).Inv := { h with }

theorem execConstruct_inv {w : Nat} (h : execConstruct w s = .next t) : t.Inv := by
  unfold execConstruct at h
  split at h
  · next slots hslots => cases h; exact initState_inv (positionSlots?_eq_some.1 hslots) s _
  · cases h; exact s.unconstructed_inv _

theorem execReset_inv (hs : s.Inv) (h : execReset s = .next t) : t.Inv := by
  unfold execReset at h
  split at h <;> cases h
  · exact initState_inv hs.legal s _
  · exact hs.setResult _

/-- A chunk command starts only on a live core and within the bounds of its arguments (R263). -/
theorem refusal?_none {len outputSize : Nat} (h : refusal? len outputSize s = none) :
    s.Live ∧ outputSize ≤ Config.outputMax ∧ len ≤ Config.inMaxBytes := by
  unfold refusal? at h
  split_ifs at h with hc hf ho hl
  exact ⟨⟨by simpa using hc, by simpa [State.faulted] using hf⟩, Nat.not_lt.1 ho, Nat.not_lt.1 hl⟩

theorem beginChunk_inv (h : s.Inv) (hp : s.phase = .idle) (data : List Byte) (outputSize : Nat) (wantBytes : Bool) :
    (beginChunk data outputSize wantBytes s).Inv := by
  unfold beginChunk
  split
  · exact h.setResult _
  · next hnone =>
    obtain ⟨hlive, hout, hlen⟩ := refusal?_none hnone
    have hsteady : (startChunk data outputSize wantBytes s).Steady 0 :=
      ⟨hlive, h.legal, h.window, Reader.load_within hlen, fun k => ⟨(h.lens k).1, (h.lens k).2, h.filled hlive k⟩,
        ⟨h.block.1, h.block.2, h.owed hlive⟩, h.header, h.chunks, hout⟩
    have hset : (startChunk data outputSize wantBytes s).SettledAt .element := fun k hk _ => h.settled hlive k hk (by rw [hp]; rfl)
    have hfirst : s.decodedChunks = 0 → s.blk.kind = .none := by
      have hplace := h.place hlive
      rwa [State.PhaseFits, hp] at hplace
    dsimp only [State.firstPhase]
    split
    · next hf => exact hsteady.inv_setPhase (p := .e8) hset trivial (hfirst (beq_iff_eq.1 hf))
    · exact hsteady.inv_loopPhase hset fun _ => rfl

theorem issue_inv (h : s.Inv) (hp : s.phase = .idle) (hi : issue s = .next t) : t.Inv := by
  unfold issue at hi
  split at hi
  · cases hi; exact h
  · exact execConstruct_inv hi
  · next rest _ => exact execReset_inv (h.withHost rest) hi
  · next rest _ => cases hi; exact beginChunk_inv (h.withHost rest) hp _ _ _
  · next rest _ => cases hi; exact beginChunk_inv (h.withHost rest) hp _ _ _

end

/-- Settles O10: an idle core's command starts from reset values, free values or a fresh reader; a running command's instruction and move keep
what every place keeps and reach a place that fits, or a fault leaves a core that is not live. -/
theorem stepKeepsInvariant : Obligations.StepKeepsInvariant := by
  intro s t h hstep
  by_cases hp : s.phase = .idle
  · rw [step, if_pos hp] at hstep
    exact issue_inv h hp hstep
  · have hfault (k : FaultKind) : (takeFault k s).Inv := takeFault_inv h.legal k
    rcases step_running hp hstep with ⟨k, rfl⟩ | ⟨m, u, hf, ⟨k, -, rfl⟩ | ⟨v, hm, ha | ⟨k, rfl⟩⟩⟩
    · exact hfault k
    · rw [(hf.takeFault k).1]
      exact hfault k
    · exact h.after_fetched hf hm ha
    · rw [(hf.takeFault k).2 v hm]
      exact hfault k

end Sys2Proof.Machine
end

section
/-! Host commands that complete (R49, R261, R262, R270, R271, R342), and the body of an Uncompressed block (R203). -/

namespace Sys2Proof.Machine

section
variable {s t : State}

/-! ### The Uncompressed body (R203) -/

theorem readUncompressedBody_apply (s : State) :
    readUncompressedBody s = (readOffsetValues.bind fun v => setBlockOffsets v.1 v.2.1 v.2.2) (s.setBr s.br.align) := rfl

/-- From a word boundary, whole words are read to a word boundary (R25, R137). -/
theorem Reader.Advanced.bitsLeft_align {r q : Reader} (h : r.align.Advanced q 96) : q.bitsLeft = 0 := by
  have hcount := h.counted
  rw [r.align_bitsLeft] at hcount
  omega

end

/-- Settles O40: the three offsets are the next 96 bits after the alignment. -/
theorem uncompressedBodySetsBlockOffsets : Obligations.UncompressedBodySetsBlockOffsets := by
  refine ⟨fun s r0 r1 r2 => rfl, fun s => ⟨fun hn => ?_, fun hn => ?_⟩⟩
  · obtain ⟨q, hq, ha⟩ := readOffsetValues_of_le (s := s.setBr s.br.align) hn
    exact ⟨q, ha, ha.bitsLeft_align, Op.run_of_ok ((readUncompressedBody_apply s).trans (Op.bind_of_ok hq))⟩
  · have hfault := readOffsetValues_of_lt (s := s.setBr s.br.align) hn
    exact Op.run_of_raise ((readUncompressedBody_apply s).trans (Op.bind_of_raise hfault))

/-- Settles O55: steps 4 and 5 of R263 on the registers as they are. -/
theorem chunkTailDelivers : Obligations.ChunkTailDelivers := by
  intro s
  refine ⟨s.win.view s.cfg.windowSize s.cmd.outputSize, advanceChunkOffset s.chunkOffset s.cmd.outputSize, countChunk s.decodedChunks, _, rfl,
    by simp [Window.view], fun k hk => ?_, ?_, fun hlt => ?_, fun heq => ?_, rfl⟩
  · rw [Window.view, List.getElem?_map, List.getElem?_range hk]
    rfl
  · simp [advanceChunkOffset]
  · unfold countChunk Config.chunkCountMax
    omega
  · unfold countChunk Config.chunkCountMax
    omega

/-! ### `construct` and `reset` -/

theorem execConstruct_legal {w slots : Nat} (h : (w, slots) ∈ positionSlotsTable) (s : State) :
    exec (.construct w) s = .next ((initState ⟨w, slots⟩ s).setResult .completed) := by
  show execConstruct w s = _
  rw [execConstruct, positionSlots?_eq_some.2 h]

theorem execConstruct_illegal {w : Nat} (h : ∀ slots, (w, slots) ∉ positionSlotsTable) (s : State) :
    exec (.construct w) s = .next (s.unconstructed.setResult (.fault 7 0)) := by
  have hnone : positionSlots? w = none := Option.eq_none_iff_forall_not_mem.2 fun slots hs => h slots (positionSlots?_eq_some.1 hs)
  show execConstruct w s = _
  rw [execConstruct, hnone]
  rfl

theorem execReset_constructed {s : State} (h : s.constructed = true) : exec .reset s = .next ((initState s.cfg s).setResult .completed) :=
  if_pos h

/-- Settles O56: a legal size finds its slots in the table and the registers take their reset values; any other finds none. -/
theorem constructSetsResetValues : Obligations.ConstructSetsResetValues := by
  refine fun s w => ⟨fun slots h => ⟨_, execConstruct_legal h s, rfl, rfl, rfl, rfl, rfl, rfl, fun _ => rfl, rfl, fun k => ?_,
    rfl, rfl, rfl, rfl, rfl⟩, fun h => ⟨_, execConstruct_illegal h s, rfl, rfl, rfl, rfl⟩⟩
  have htable : ((initState ⟨w, slots⟩ s).setResult .completed).table k = Table.absent (symbolCount slots k) :=
    State.initial_table ⟨w, slots⟩ k
  rw [htable]
  exact ⟨rfl, rfl, rfl⟩

/-- Settles O57: `reset` reads the configuration, the host's side and the count of draws only, and a chunk command that takes no fault
keeps these. -/
theorem resetEqualsReconstruction : Obligations.ResetEqualsReconstruction := by
  intro s hs hlegal
  refine ⟨(initState s.cfg s).setResult .completed, execReset_constructed hs, execConstruct_legal hlegal s, rfl, execReset_constructed rfl,
    fun s' hs' hcfg => ?_, fun data n u v w hu hfree hv hw => ?_⟩
  · rw [execReset_constructed hs', hcfg]
    rfl
  · have hstatus : State.SameStatus ((initState s.cfg s).setResult .completed) u := by
      rcases exec_status hu (by simp) (by simp) with h | ⟨k, rfl⟩
      · exact h
      · exact absurd hfree (Nat.succ_ne_self _)
    have hagain : v = (initState s.cfg s).setResult .completed := by
      rw [execReset_constructed hstatus.constructed, hstatus.cfg] at hv
      cases hv
      simp only [initState, hstatus.host, hstatus.freeCtr]
      rfl
    rw [hagain, hu] at hw
    cases hw
    rfl

end Sys2Proof.Machine
end

section
/-! The reader's operations as instructions (R64 to R69, R130 to R140), and the step of a running command whose input ends too early (R133,
R139, R164, R208, R267). -/

namespace Sys2Proof.Machine

section
variable {s t : State}

/-! ### Bits -/

/-- `n` stream bits make a number of `n` bits (R10 (b)). -/
theorem bitsValue_take_lt (n : Nat) (bits : List Bool) : bitsValue (bits.take n) < 2 ^ n :=
  (bitsValue_lt _).trans_le (Nat.pow_le_pow_right Nat.two_pos (List.length_take_le n bits))

theorem ofNat_bitsValue_toNat (n : Nat) (bits : List Bool) :
    (BitVec.ofNat n (bitsValue (bits.take n))).toNat = bitsValue (bits.take n) := Nat.mod_eq_of_lt (bitsValue_take_lt n bits)

theorem u32Value_toNat (bits : List Bool) :
    (u32Value bits).toNat = bitsValue ((bits.drop 16).take 16) * 2 ^ 16 + bitsValue (bits.take 16) := by
  have hhi := bitsValue_take_lt 16 (bits.drop 16)
  have hlo := bitsValue_take_lt 16 bits
  exact Nat.mod_eq_of_lt (by omega)

theorem exec_readBits {n : Nat} (h : n ≤ 32) (s : State) : exec (.readBits n) s = (readBits n).runRet .num s := if_pos h

/-! ### Words and bytes -/

theorem fetchWord_ok (h : s.br.bytePos + 2 ≤ s.br.len) :
    fetchWord s = .ok () (s.setBr { s.br with currentWord := s.br.wordAt s.br.bytePos, bitsLeft := 16, bytePos := s.br.bytePos + 2 }) :=
  onReader_of_ok (by rw [Reader.fetchWord_ok h]; rfl)

theorem fetchWord_raise (h : s.br.len < s.br.bytePos + 2) : fetchWord s = .raise (.outOfBounds .wordFetch) :=
  onReader_of_error (by rw [Reader.fetchWord_error h]; rfl)

theorem readByte_ok (h : s.br.bytePos + 1 ≤ s.br.len) :
    readByte s = .ok (s.br.byteAt s.br.bytePos) (s.setBr { s.br with bytePos := s.br.bytePos + 1 }) :=
  onReader_of_ok (if_neg (Nat.not_lt.2 h))

theorem readByte_raise (h : s.br.len < s.br.bytePos + 1) : readByte s = .raise (.outOfBounds .byteRead) := onReader_of_error (if_pos h)

/-- A pad byte that the input does not hold faults (R267). -/
theorem padByte_faults (h : s.br.len < s.br.bytePos + 1) : Faults .padByte s (.outOfBounds .byteRead) :=
  Op.run_of_raise (Op.bind_of_raise (readByte_raise h))

/-- Raw bytes with no input left fault before a byte is taken (R208). -/
theorem rawBytes_faults (h : s.br.len ≤ s.br.bytePos) : Faults .rawBytes s .internalInvariant := by
  have hempty : min s.blk.remaining s.br.remaining = 0 := by
    rw [Reader.remaining]
    omega
  have hraise : decodeUncompressed s = .raise .internalInvariant := if_pos hempty
  exact Op.run_of_raise (Op.bind_of_raise hraise)

/-- A fresh reader delivers the whole words of its input (R69, R130). -/
theorem Reader.stream_length_load (data : List Byte) : (Reader.load data).stream.length = 16 * (data.length / 2) := by
  rw [Reader.stream_length]
  exact Nat.zero_add _

/-! ### Steps that fault -/

/-- A fault of the instruction ends the step: the idle core does not move on (R313). -/
theorem step_of_fetch_faults {i : Instr} {k : FaultKind} (hp : s.phase ≠ .idle) (hf : fetch s = .ok i t) (hi : Faults i t k) :
    step s = .next (takeFault k t) := step_of_fetch hp hf hi

/-- A place whose fields are read with a width that the input does not hold (R131, R139). -/
def State.FieldsCut (s : State) : Prop :=
  (s.phase = .e8 ∧ s.br.stream.length < 1) ∨ (s.phase = .header ∧ s.br.stream.length < 27) ∨
    (s.phase = .rValues ∧ s.br.stream.length < 96) ∨ (s.phase = .alignedLens ∧ s.br.stream.length < 24) ∨
    ∃ stage, s.phase = .pretreeLens stage ∧ s.br.stream.length < 80

theorem State.FieldsCut.step_faults (h : s.FieldsCut) : step s = .next (takeFault (.outOfBounds .wordFetch) s) := by
  have hfetch : s.phase ≠ .idle ∧ fetch s = .raise (.outOfBounds .wordFetch) := by
    unfold fetch
    rcases h with ⟨hp, hn⟩ | ⟨hp, hn⟩ | ⟨hp, hn⟩ | ⟨hp, hn⟩ | ⟨stage, hp, hn⟩ <;> rw [hp] <;> refine ⟨by simp, ?_⟩
    · exact Op.bind_of_raise (readBits_of_lt hn)
    · exact Op.bind_of_raise (readHeader_of_lt hn)
    · exact Op.bind_of_raise (readOffsetValues_of_lt hn)
    · exact Op.bind_of_raise (readAlignedField_of_lt hn)
    · exact Op.bind_of_raise (readPretreeField_of_lt hn)
  exact step_of_fetch_raise hfetch.1 hfetch.2

/-- The place reads a symbol of the tables of kind `k` (R181, R209). -/
def State.ReadsSymbol (s : State) (k : TableKind) : Prop :=
  (∃ stage, s.phase = .pretreeSym stage) ∧ k = .pre ∨ s.phase = .element ∧ s.blk.kind ≠ .uncompressed ∧ k = .main

/-- A symbol that cannot be decoded faults in the step that reads it (R164). -/
theorem State.ReadsSymbol.step_faults {k : TableKind} {e : FaultKind} (h : s.ReadsSymbol k) (hd : decodeSymbol k s = .raise e) :
    step s = .next (takeFault e s) := by
  have hfetch : s.phase ≠ .idle ∧ fetch s = .raise e := by
    unfold fetch
    rcases h with ⟨⟨stage, hp⟩, rfl⟩ | ⟨hp, hk, rfl⟩ <;> rw [hp] <;> refine ⟨by simp, ?_⟩
    · exact Op.bind_of_raise hd
    · exact (if_neg hk).trans (Op.bind_of_raise hd)
  exact step_of_fetch_raise hfetch.1 hfetch.2

/-- A code longer than the bits left faults (R133, R164). -/
theorem decodeSymbol_cut {k : TableKind} {sym : Nat} (hp : (s.table k).present = true) (hm : (s.table k).maxLength ≤ 16)
    (h : (s.table k).tab[bitsValue (s.br.peekStream.take (s.table k).maxLength)]? = some sym)
    (hn : s.br.stream.length < lenAt (s.table k).lens sym) : decodeSymbol k s = .raise (.outOfBounds .wordFetch) := by
  rcases decodeSymbol_of_lookup hp hm h with ⟨hle, -⟩ | ⟨-, he⟩
  · exact absurd hn (Nat.not_lt.2 hle)
  · exact he

end

/-- Settles O6: reading the fields or the symbol raises the fault; the pad byte and the raw bytes are fetched without a bit read, and their own
meaning raises it. -/
theorem truncatedStreamFaults : Obligations.TruncatedStreamFaults := by
  refine fun s => ⟨State.FieldsCut.step_faults, fun k sym hplace hp hm hsym hn =>
    State.ReadsSymbol.step_faults hplace (decodeSymbol_cut hp hm hsym hn), fun hp hn => ?_, fun hp hk hn => ?_⟩
  · have hfetch : fetch s = .ok .padByte s := by rw [fetch, hp]
    exact step_of_fetch_faults (by simp [hp]) hfetch (padByte_faults hn)
  · have hfetch : fetch s = .ok .rawBytes s := by simp only [fetch, hp, if_pos hk]
    exact step_of_fetch_faults (by simp [hp]) hfetch (rawBytes_faults hn)

/-- Settles O17: inside its domain the instruction is the reader's operation, which takes the bits or faults. -/
theorem readBitsTakesNextBits : Obligations.ReadBitsTakesNextBits := by
  refine fun n s => ⟨fun h32 hn => ?_, fun h32 hn => ?_, fun h32 => if_neg (Nat.not_le.2 h32)⟩
  · obtain ⟨q, hq, ha⟩ := readBits_of_le hn
    exact ⟨q, ha, (exec_readBits h32 s).trans (Op.runRet_of_ok hq)⟩
  · exact (exec_readBits h32 s).trans (Op.runRet_of_raise (readBits_of_lt hn))

/-- Settles O20: the operations' values fit their 32 and 24 bits, so the returned numbers are those of the stream bits. -/
theorem multiWordReads : Obligations.MultiWordReads := by
  refine fun s => ⟨fun hn => ?_, fun hn => Op.runRet_of_raise (readU32le_of_lt hn), fun hn => ?_,
    fun hn => Op.runRet_of_raise (readU24be_of_lt hn)⟩
  · obtain ⟨q, hq, ha⟩ := readU32le_of_le hn
    rw [← u32Value_toNat]
    exact ⟨q, ha, Op.runRet_of_ok hq⟩
  · obtain ⟨q, hq, ha⟩ := readU24be_of_le hn
    rw [← ofNat_bitsValue_toNat]
    exact ⟨q, ha, Op.runRet_of_ok hq⟩

/-- Settles O21: the word fetched is the one at the cursor, and a fresh reader stands before the first of its words. -/
theorem fetchWordAndLoad : Obligations.FetchWordAndLoad :=
  fun _ data => ⟨fun h => Op.run_of_ok (fetchWord_ok h), fun h => Op.run_of_raise (fetchWord_raise h), _, rfl, rfl,
    Reader.stream_length_load data⟩

/-- Settles O22: each read moves the cursor over its bytes, or faults before a byte is taken, and writes nothing else of the reader. -/
theorem byteReadsIgnorePendingBits : Obligations.ByteReadsIgnorePendingBits := by
  refine fun n s => ⟨fun h => ⟨Op.runRet_of_ok (readByte_ok h), Op.run_of_ok (Op.bind_of_ok (readByte_ok h))⟩,
    fun h => ⟨Op.runRet_of_raise (readByte_raise h), padByte_faults h⟩,
    fun h => ⟨_, ?_, fun k hk => ?_, Op.runRet_of_ok (readBytes_ok h)⟩, fun h => Op.runRet_of_raise (readBytes_raise h),
    s.br.remaining, rfl, fun h => ?_, fun h => ?_⟩
  · rw [List.length_map, List.length_range]
  · rw [List.getElem?_map, List.getElem?_range hk]
    rfl
  · exact Nat.add_sub_cancel' h
  · exact Nat.sub_eq_zero_of_le h.le

end Sys2Proof.Machine
end

section
/-! The stream encoding, both ways (R92 to R106, R111, R116): each group of rows that one list or one formula numbers has its decoding and its
encoding stated once. -/

namespace Sys2Proof

/-! ### Decoding a pattern -/

theorem decode_headerWord {tag : Nat} (h : tag < 8) (size : BitVec 24) :
    decode .blockHeader (headerWord tag size) = .ok (headerInstr tag size) := by
  have hsize := size.isLt
  have htag : headerWord tag size / 2 ^ 24 = tag := by unfold headerWord; omega
  have hlow : BitVec.ofNat 24 (headerWord tag size) = size := BitVec.eq_of_toNat_eq (by rw [BitVec.toNat_ofNat]; unfold headerWord; omega)
  rw [Machine.decode_blockHeader (Laws.headerWord_lt size (by omega)), htag, hlow]

theorem decode_matchWord {slot : Nat} {ctor : BitVec 3 → Instr} (h : slotCtors[slot]? = some ctor) (lh : BitVec 3) :
    decode .mainSymbol (matchWord slot lh) = .ok (ctor lh) := by
  have hlh := lh.isLt
  have hslot : (matchWord slot lh - 256) / 8 = slot := by unfold matchWord; omega
  have hlow : BitVec.ofNat 3 (matchWord slot lh) = lh := BitVec.eq_of_toNat_eq (by rw [BitVec.toNat_ofNat]; unfold matchWord; omega)
  rw [Machine.decode_match (by unfold matchWord; omega) (by rwa [hslot]), hlow]

theorem decode_byte (b : BitVec 8) : decode .mainSymbol b.toNat = .ok (.literal b) := by
  rw [Machine.decode_literal b.isLt, BitVec.ofNat_toNat, BitVec.setWidth_eq]

theorem decode_lengthHeader {w : Nat} (h : w < 2 ^ Format.lengthHeader.width) : decode .lengthHeader w = .ok (lenHdrCtors.getD w .lenHdr7) := by
  rw [decode, if_neg (Nat.not_le.2 h)]

theorem decode_lengthSymbol {t : BitVec 8} (h : t.toNat < 249) : decode .lengthSymbol t.toNat = .ok (.lengthSymbol t) := by
  have hw : t.toNat < 2 ^ Format.lengthSymbol.width := t.isLt
  simp only [decode, if_neg (Nat.not_le.2 hw), if_pos h, BitVec.ofNat_toNat, BitVec.setWidth_eq]

theorem decode_alignedSymbol (a : BitVec 3) : decode .alignedSymbol a.toNat = .ok (.alignedSymbol a) := by
  have hw : a.toNat < 2 ^ Format.alignedSymbol.width := a.isLt
  simp only [decode, if_neg (Nat.not_le.2 hw), BitVec.ofNat_toNat, BitVec.setWidth_eq]

theorem decode_rValuesWord (r0 r1 r2 : BitVec 32) : decode .rValues (rValuesWord r0 r1 r2) = .ok (.uncompressedRValues r0 r1 r2) := by
  have h0 := r0.isLt
  have h1 := r1.isLt
  have h2 := r2.isLt
  have e0 : BitVec.ofNat 32 (rValuesWord r0 r1 r2 / 2 ^ 64) = r0 :=
    BitVec.eq_of_toNat_eq (by rw [BitVec.toNat_ofNat]; unfold rValuesWord; omega)
  have e1 : BitVec.ofNat 32 (rValuesWord r0 r1 r2 / 2 ^ 32) = r1 :=
    BitVec.eq_of_toNat_eq (by rw [BitVec.toNat_ofNat]; unfold rValuesWord; omega)
  have e2 : BitVec.ofNat 32 (rValuesWord r0 r1 r2) = r2 := BitVec.eq_of_toNat_eq (by rw [BitVec.toNat_ofNat]; unfold rValuesWord; omega)
  rw [Machine.decode_rValues (Laws.rValuesWord_lt r0 r1 r2), e0, e1, e2]

/-- Settles O1: a row of a numbered group is decoded by its group's rule, every other pattern by its own. -/
theorem decodeEncodeRoundTrip : Obligations.DecodeEncodeRoundTrip := by
  intro i f w hwf henc
  cases i <;> simp only [encode, Option.some.injEq, Prod.mk.injEq, reduceCtorEq] at henc <;> obtain ⟨rfl, rfl⟩ := henc
  case literal byte => exact decode_byte byte
  case lengthSymbol t => exact decode_lengthSymbol (of_decide_eq_true hwf)
  case alignedSymbol a => exact decode_alignedSymbol a
  case uncompressedRValues r0 r1 r2 => exact decode_rValuesWord r0 r1 r2
  case alignedLengths l => exact Machine.decode_alignedLengths l
  case pretreeLengths l => exact Machine.decode_pretreeLengths l
  case e8Clear | e8Set | rawBytes | footerBitsField | alignPadding | padByte | chunkTail => rfl
  case lenHdr0 | lenHdr1 | lenHdr2 | lenHdr3 | lenHdr4 | lenHdr5 | lenHdr6 | lenHdr7 => exact decode_lengthHeader (by decide)
  case blockInvalid0 size | blockVerbatim size | blockAligned size | blockUncompressed size | blockInvalid4 size | blockInvalid5 size |
      blockInvalid6 size | blockInvalid7 size => exact decode_headerWord (by decide) size
  case ptDelta0 | ptDelta1 | ptDelta2 | ptDelta3 | ptDelta4 | ptDelta5 | ptDelta6 | ptDelta7 | ptDelta8 | ptDelta9 | ptDelta10 | ptDelta11 |
      ptDelta12 | ptDelta13 | ptDelta14 | ptDelta15 | ptDelta16 | ptZeroRunShort | ptZeroRunLong | ptSameRun =>
    exact Machine.decode_pretreeSymbol rfl
  -- what is left are the 98 match rows
  all_goals exact decode_matchWord rfl _

/-! ### Encoding what a pattern decodes to -/

theorem encode_headerInstr {tag : Nat} (h : tag < 8) (size : BitVec 24) :
    (headerInstr tag size).wellFormed = true ∧ encode (headerInstr tag size) = some (.blockHeader, headerWord tag size) := by
  interval_cases tag <;> exact ⟨rfl, rfl⟩

theorem encode_lenHdrCtors {w : Nat} (h : w < 8) :
    (lenHdrCtors.getD w .lenHdr7).wellFormed = true ∧ encode (lenHdrCtors.getD w .lenHdr7) = some (.lengthHeader, w) := by
  interval_cases w <;> exact ⟨rfl, rfl⟩

theorem encode_pretreeCtors {sym : Nat} {i : Instr} (h : pretreeCtors[sym]? = some i) :
    i.wellFormed = true ∧ encode i = some (.pretreeSymbol, sym) := by
  have hsym : sym < 20 := (List.getElem?_eq_some_iff.1 h).1
  have hall : pretreeCtors.map (fun i => (i.wellFormed, encode i)) = (List.range 20).map fun sym => (true, some (.pretreeSymbol, sym)) := rfl
  have hget := congrArg (·[sym]?) hall
  simpa only [List.getElem?_map, h, List.getElem?_range hsym, Option.map_some, Option.some.injEq, Prod.mk.injEq] using hget

theorem encode_slotCtors {slot : Nat} {ctor : BitVec 3 → Instr} (h : slotCtors[slot]? = some ctor) (lh : BitVec 3) :
    (ctor lh).wellFormed = true ∧ encode (ctor lh) = some (.mainSymbol, matchWord slot lh) := by
  have hslot : slot < 98 := (List.getElem?_eq_some_iff.1 h).1
  have hall : slotCtors.map (fun ctor => ((ctor lh).wellFormed, encode (ctor lh))) =
      (List.range 98).map fun slot => (true, some (.mainSymbol, matchWord slot lh)) := rfl
  have hget := congrArg (·[slot]?) hall
  simpa only [List.getElem?_map, h, List.getElem?_range hslot, Option.map_some, Option.some.injEq, Prod.mk.injEq] using hget

theorem headerWord_split {w : Nat} : headerWord (w / 2 ^ 24) (BitVec.ofNat 24 w) = w := by
  rw [headerWord, BitVec.toNat_ofNat]
  omega

theorem matchWord_split {sym : Nat} (h : 256 ≤ sym) : matchWord ((sym - 256) / 8) (BitVec.ofNat 3 sym) = sym := by
  rw [matchWord, BitVec.toNat_ofNat]
  omega

theorem rValuesWord_split {w : Nat} (h : w < 2 ^ Format.rValues.width) :
    rValuesWord (BitVec.ofNat 32 (w / 2 ^ 64)) (BitVec.ofNat 32 (w / 2 ^ 32)) (BitVec.ofNat 32 w) = w := by
  rw [Format.width] at h
  simp only [rValuesWord, BitVec.toNat_ofNat]
  omega

theorem encode_mainInstr {sym : Nat} {i : Instr} (h : mainInstr sym = .ok i) : i.wellFormed = true ∧ encode i = some (.mainSymbol, sym) := by
  unfold mainInstr at h
  split at h
  · next hlit =>
    cases h
    refine ⟨rfl, ?_⟩
    rw [encode, BitVec.toNat_ofNat, Nat.mod_eq_of_lt hlit]
  · next hlit =>
    split at h
    · next ctor hctor =>
      cases h
      have henc := encode_slotCtors hctor (BitVec.ofNat 3 sym)
      rwa [matchWord_split (Nat.not_lt.1 hlit)] at henc
    · cases h

theorem pattern_congr {f : Format} {v w : Nat} (h : v = w) : some (f, v) = some (f, w) := by rw [h]

/-- Settles O2: the pattern is in its format's width, so the fields cut from it, put together again, are the pattern. -/
theorem encodeDecodeRoundTrip : Obligations.EncodeDecodeRoundTrip := by
  intro f w i h
  have hw := Machine.decode_fits h
  unfold decode at h
  rw [if_neg (Nat.not_le.2 hw)] at h
  cases f
  case blockHeader =>
    cases h
    have htag : w / 2 ^ 24 < 8 := Nat.div_lt_of_lt_mul hw
    have henc := encode_headerInstr htag (BitVec.ofNat 24 w)
    rwa [headerWord_split] at henc
  case pretreeSymbol => exact encode_pretreeCtors (Machine.decode_pretreeSymbol_ok (by rw [decode, if_neg (Nat.not_le.2 hw)]; exact h))
  case mainSymbol => exact encode_mainInstr h
  case lengthHeader => cases h; exact encode_lenHdrCtors hw
  case lengthSymbol =>
    dsimp only at h
    split at h
    · next hlt =>
      cases h
      have hfield : (BitVec.ofNat 8 w).toNat = w := Nat.mod_eq_of_lt hw
      exact ⟨decide_eq_true (by rwa [hfield]), pattern_congr hfield⟩
    · cases h
  case chunkPrefix =>
    cases h
    obtain rfl | rfl : w = 0 ∨ w = 1 := by rw [Format.width] at hw; omega
    all_goals exact ⟨rfl, rfl⟩
  case rValues => cases h; exact ⟨rfl, pattern_congr (rValuesWord_split hw)⟩
  case alignedSymbol => cases h; exact ⟨rfl, pattern_congr (Nat.mod_eq_of_lt hw)⟩
  case alignedLengths => cases h; exact ⟨rfl, pattern_congr (Nat.mod_eq_of_lt hw)⟩
  case pretreeLengths => cases h; exact ⟨rfl, pattern_congr (Nat.mod_eq_of_lt hw)⟩
  case rawBytes | footerBits | alignPadding | padByte | chunkTail =>
    cases h
    obtain rfl : w = 0 := by rw [Format.width] at hw; omega
    exact ⟨rfl, rfl⟩

/-! ### The patterns refused -/

theorem pretreeCtors_getElem?_none {sym : Nat} : pretreeCtors[sym]? = none ↔ 20 ≤ sym := List.getElem?_eq_none_iff

theorem slotCtors_getElem?_none {slot : Nat} : slotCtors[slot]? = none ↔ 98 ≤ slot := List.getElem?_eq_none_iff

theorem mainInstr_error {sym : Nat} : (∃ r, mainInstr sym = .error r) ↔ 1040 ≤ sym := by
  unfold mainInstr
  by_cases hlit : sym < 256
  · simp only [if_pos hlit, reduceCtorEq, exists_false, false_iff]
    omega
  · rw [if_neg hlit]
    cases hctor : slotCtors[(sym - 256) / 8]? with
    | none =>
      have hslot := slotCtors_getElem?_none.1 hctor
      exact ⟨fun _ => by omega, fun _ => ⟨_, rfl⟩⟩
    | some ctor =>
      have hslot : (sym - 256) / 8 < 98 := (List.getElem?_eq_some_iff.1 hctor).1
      simp only [reduceCtorEq, exists_false, false_iff]
      omega

/-- Settles O3: inside the width only the three symbol formats refuse: a pretree or main symbol where its list of rows ends, a length symbol by
its own test. -/
theorem reservedPatternsRefused : Obligations.ReservedPatternsRefused := by
  intro f w
  by_cases hw : 2 ^ f.width ≤ w
  · exact ⟨fun _ => .inl hw, fun _ => ⟨.tooWide, if_pos hw⟩⟩
  unfold decode
  rw [if_neg hw]
  cases f <;> simp only [hw, reduceCtorEq, false_and, false_or, or_false, true_and, exists_false]
  case pretreeSymbol =>
    rw [← pretreeCtors_getElem?_none]
    cases pretreeCtors[w]? <;> simp
  case mainSymbol => exact mainInstr_error
  case lengthSymbol => split <;> simp <;> omega

/-- Settles O4: each word by evaluation. -/
theorem sampleWordsDecode : Obligations.SampleWordsDecode := ⟨rfl, rfl, rfl, rfl, rfl, rfl, rfl, rfl⟩

end Sys2Proof
end

section
/-! Alignment (R137), codes of a built table (R101, R164), and the length fields of a block body (R98, R99, R180, R189). -/

namespace Sys2Proof.Machine

theorem Reader.align_of_none {r : Reader} (h : r.bitsLeft = 0) : r.align = { r with bytePos := r.bytePos + 2 } := if_pos h

theorem Reader.align_of_pending {r : Reader} (h : r.bitsLeft ≠ 0) : r.align = { r with bitsLeft := 0 } := if_neg h

/-- Settles O23: both rows are `align`, which always completes. -/
theorem alignDropsToWordBoundary : Obligations.AlignDropsToWordBoundary := by
  intro s i hi
  have hrun : exec i s = .next (s.setBr s.br.align) := by rcases hi with rfl | rfl <;> rfl
  refine ⟨s.br.align, hrun, ?_⟩
  by_cases h0 : s.br.bitsLeft = 0
  · rw [Reader.align_of_none h0]
    exact ⟨rfl, rfl, rfl, h0, fun _ => rfl, fun h => absurd h0 h⟩
  · rw [Reader.align_of_pending h0]
    exact ⟨rfl, rfl, rfl, rfl, fun h => absurd h h0, fun _ => rfl⟩

/-- Settles O26: the index peeked lies in the symbol's span, and the symbol's length is what is read. -/
theorem everyCodeDecodes : Obligations.EveryCodeDecodes := by
  intro k s sym hbuild hpresent hsmall hused hcode
  obtain ⟨q, hq, ha⟩ := decodeSymbol_code hbuild hpresent hsmall hused hcode
  exact ⟨q, ha, Op.runRet_of_ok hq⟩

/-! ### Building a table from given lengths -/

/-- The filled table of lengths that tile is their canonical table (R163). -/
theorem canonical_tableEntries {lens : List Nat} (h : Tiles lens) : Canonical lens (tableEntries lens) where
  size := by rw [tableEntries, entries_length, allSpans_fillOrder, h.2]
  span := fun _ hs _ hq => tableEntries_span hs hq
  used := fun sym hs => by
    obtain ⟨L, hL⟩ := mem_entries hs
    obtain ⟨hpos, -, -, hlen⟩ := mem_fillOrder.1 hL
    omega

theorem State.setTable_setTable (s : State) (k : TableKind) (v w : Table) : (s.setTable k v).setTable k w = s.setTable k w := by
  cases k <;> rfl

theorem buildTable_of_build {s : State} {k : TableKind} {v : Table} (h : (s.table k).build k = .ok v) :
    buildTable k s = .ok () (s.setTable k v) := by simp [buildTable, h]

theorem buildTable_of_error {s : State} {k : TableKind} {e : FaultKind} (h : (s.table k).build k = .error e) :
    buildTable k s = .raise e := by simp [buildTable, h]

/-- The state `u` with other lengths for the table of kind `k`, the table not built from them yet. -/
def State.setLens (u : State) (k : TableKind) (lens : List Nat) : State := u.setTable k { u.table k with lens := lens }

theorem State.setLens_table_lens (u : State) (k : TableKind) (lens : List Nat) : ((u.setLens k lens).table k).lens = lens := by
  rw [State.setLens, State.setTable_table_same]

/-- An instruction that sets the lengths of a table and builds it does what `BuildsTable` says. -/
theorem buildsTable_of_setLens {i : Instr} {s u : State} {k : TableKind} {lens : List Nat} {m : Op Unit} (hi : exec i s = m.run s)
    (hm : m s = buildTable k (u.setLens k lens)) : BuildsTable i s k lens u := by
  have hlens := u.setLens_table_lens k lens
  have hok : ∀ v, ((u.setLens k lens).table k).build k = .ok v → exec i s = .next (u.setTable k v) := fun v hv => by
    rw [hi, Op.run_of_ok (hm.trans (buildTable_of_build hv)), State.setLens, State.setTable_setTable]
  have herr : ∀ e, ((u.setLens k lens).table k).build k = .error e → Faults i s e := fun e he =>
    hi.trans (Op.run_of_raise (hm.trans (buildTable_of_error he)))
  simp only [Table.build_eq, hlens] at hok herr
  refine ⟨fun ht => ⟨tableEntries lens, canonical_tableEntries ht, hok _ ?_⟩, fun h0 hk => hok _ ?_, fun h0 hk => herr _ ?_,
    fun hpos hlt => herr _ ?_, fun hpos hlt => herr _ ?_⟩
  · rw [if_neg ht.1.ne', if_pos ht.2]
  · rw [if_pos h0, if_pos hk]
  · rw [if_pos h0, if_neg hk]
  · rw [if_neg hpos.ne', if_neg hlt.ne, if_pos hlt]
  · rw [if_neg hpos.ne', if_neg hlt.ne', if_neg hlt.not_gt]

/-! ### The length fields -/

theorem lenAt_map_range {n k : Nat} (f : Nat → Nat) (h : k < n) : lenAt ((List.range n).map f) k = f k := by
  rw [lenAt, List.getD_eq_getElem _ _ (by simpa using h), List.getElem_map, List.getElem_range]

/-- The twenty fields of the pretree lengths (R99). -/
def pretreeLens (l : BitVec 80) : List Nat := (List.range nPre).map (pretreeLenField l)

/-- The eight fields of the aligned lengths (R98). -/
def alignedLens (l : BitVec 24) : List Nat := (List.range nAlign).map (alignedLenField l)

theorem setPretree_apply (l : BitVec 80) (s : State) : setPretree l s = buildTable .pre (s.setLens .pre (pretreeLens l)) := by
  rw [setPretree, Op.andThen_of_ok (Op.modify_apply _ s)]
  rfl

theorem setAlignedTree_apply (l : BitVec 24) (s : State) : setAlignedTree l s = buildTable .align (s.setLens .align (alignedLens l)) := by
  rw [setAlignedTree, Op.andThen_of_ok (Op.modify_apply _ s)]
  rfl

/-- Settles O32: the lengths are the numbers cut out of the field's word, and both rows set them and build. -/
theorem lengthFieldsBuildTables : Obligations.LengthFieldsBuildTables := by
  refine ⟨fun l s => ⟨pretreeLens l, by rw [pretreeLens, List.length_map, List.length_range, nPre], fun k hk => ?_,
      buildsTable_of_setLens (m := setPretree l) rfl (setPretree_apply l s)⟩,
    fun l s => ⟨alignedLens l, by rw [alignedLens, List.length_map, List.length_range, nAlign], fun k hk => ?_,
      buildsTable_of_setLens (m := setAlignedTree l) rfl (setAlignedTree_apply l s)⟩⟩
  · rw [pretreeLens, lenAt_map_range (n := nPre) _ hk, pretreeLenField, BitVec.extractLsb'_toNat, Nat.shiftRight_eq_div_pow]
  · rw [alignedLens, lenAt_map_range (n := nAlign) _ hk, alignedLenField, BitVec.extractLsb'_toNat, Nat.shiftRight_eq_div_pow]

end Sys2Proof.Machine
end

section
/-! Coded offsets (R105 to R108, R115, R214 to R217): the arithmetic of a slot's range, and the fields read one after the other. -/

namespace Sys2Proof.Machine

/-! ### The range of a slot (R107, R108) -/

theorem basePosition_succ (slot : Nat) : basePosition (slot + 1) = basePosition slot + 2 ^ footerBits slot := rfl

theorem le_basePosition : ∀ slot : Nat, slot ≤ basePosition slot
  | 0 => Nat.le_refl 0
  | slot + 1 => by
    have hbase := le_basePosition slot
    have hpos := Nat.two_pow_pos (footerBits slot)
    rw [basePosition_succ]
    omega

theorem basePosition_mono : Monotone basePosition := monotone_nat_of_le_succ fun slot => by
  rw [basePosition_succ]
  exact Nat.le_add_right _ _

/-- Where the ranges of the 98 slots end. -/
theorem basePosition_last : basePosition 98 = 2 ^ 23 := by decide +kernel

/-- The offset of a coded slot, `w` being all its footer bits: inside the slot's range, at least 1, and not cut (R115 (b), (c)). -/
theorem codedOffset_toNat {slot w : Nat} (h3 : 3 ≤ slot) (h98 : slot < 98) (hw : w < 2 ^ footerBits slot) :
    (BitVec.ofNat 32 (basePosition slot + w - 2)).toNat + 2 = basePosition slot + w := by
  have hbase := le_basePosition slot
  have hend := basePosition_mono (show slot + 1 ≤ 98 by omega)
  rw [basePosition_succ, basePosition_last] at hend
  rw [BitVec.toNat_ofNat, Nat.mod_eq_of_lt (by omega)]
  omega

theorem codedOffset_inside {slot w : Nat} {off : Word32} (h3 : 3 ≤ slot) (hw : w < 2 ^ footerBits slot)
    (h : off.toNat + 2 = basePosition slot + w) : 1 ≤ off.toNat ∧ off.toNat + 3 ≤ basePosition (slot + 1) := by
  have hbase := le_basePosition slot
  rw [basePosition_succ]
  omega

/-- Raw bits above an aligned symbol's three make footer bits (R106). -/
theorem alignedBits_lt {slot v a : Nat} (h8 : 8 ≤ slot) (hv : v < 2 ^ (footerBits slot - 3)) (ha : a < 8) : v * 8 + a < 2 ^ footerBits slot := by
  have h3 : 3 ≤ footerBits slot := by unfold footerBits; split <;> omega
  have hpow : 2 ^ footerBits slot = 2 ^ (footerBits slot - 3) * 8 := by
    rw [show (8 : Nat) = 2 ^ 3 from rfl, ← Nat.pow_add, Nat.sub_add_cancel h3]
  omega

/-! ### Reads that look at the reader and one table only -/

theorem readBits_congr {n v : Nat} {s s' t : State} (hb : s'.br = s.br) (h : readBits n s = .ok v t) :
    readBits n s' = .ok v (s'.setBr t.br) := by
  obtain ⟨q, hq, rfl⟩ := onReader_ok h
  exact onReader_of_ok (by rw [hb]; exact hq)

theorem decodeSymbol_congr {k : TableKind} {sym : Nat} {s s' t : State} (hb : s'.br = s.br) (ht : s'.table k = s.table k)
    (h : decodeSymbol k s = .ok sym t) : decodeSymbol k s' = .ok sym (s'.setBr t.br) := by
  unfold decodeSymbol State.present at h ⊢
  rw [ht]
  split at h
  · next hp =>
    obtain ⟨idx, u, hpeek, h⟩ := Op.bind_ok_iff.1 h
    obtain ⟨hu, hidx⟩ := peekBits_ok hpeek
    subst u
    obtain ⟨sym', u, hlook, h⟩ := Op.bind_ok_iff.1 h
    have hpeek' : peekBits (s.table k).maxLength s' = .ok idx s' := onReader_of_ok (by rw [hb, hidx]; rfl)
    rw [if_pos hp, Op.bind_of_ok hpeek']
    unfold lookupSymbol at hlook
    split at hlook
    · next x hx =>
      cases hlook
      obtain ⟨v, u, hread, h⟩ := Op.bind_ok_iff.1 h
      cases h
      have hlook' : lookupSymbol k idx s' = .ok sym s' := lookupSymbol_ok (by rw [ht, hx])
      rw [Op.bind_of_ok hlook', Op.bind_of_ok (readBits_congr hb hread)]
      rfl
    · cases hlook
  · cases h

/-! ### The offset operations -/

section
variable {s t u : State}

theorem setMatchSlot_apply (slot : Nat) (s : State) : setMatchSlot slot s = .ok () (s.setElt { s.elt with slot := slot }) := rfl

theorem verbatimOffsetDone_apply (s : State) : verbatimOffsetDone s =
    .ok () ((s.setElt { s.elt with offset := verbatimOffset s.elt.slot s.elt.v }).setRep
      ⟨verbatimOffset s.elt.slot s.elt.v, s.rep.r0, s.rep.r1⟩) := rfl

theorem alignedSymbol_apply (a : Nat) (s : State) : alignedSymbol a s =
    .ok () ((s.setElt { s.elt with offset := alignedOffset s.elt.slot s.elt.v a }).setRep
      ⟨alignedOffset s.elt.slot s.elt.v a, s.rep.r0, s.rep.r1⟩) := rfl

/-- The verbatim path returns and pushes its offset (R214, R217). -/
theorem matchOffsetVerbatim_of_read {slot v : Nat} (h : readBits (footerBits slot) s = .ok v t) :
    returnOffset (matchOffsetVerbatim slot) s = .ok (verbatimOffset slot v)
      ((t.setElt { s.elt with slot := slot, v := v, offset := verbatimOffset slot v }).setRep ⟨verbatimOffset slot v, s.rep.r0, s.rep.r1⟩) := by
  obtain ⟨-, -, q, rfl, -⟩ := readBits_ok h
  have hread := readBits_congr (s := s) (s' := s.setElt { s.elt with slot := slot }) rfl h
  have hmatch : matchOffsetVerbatim slot s = .ok () (((s.setBr q).setElt
      { s.elt with slot := slot, v := v, offset := verbatimOffset slot v }).setRep ⟨verbatimOffset slot v, s.rep.r0, s.rep.r1⟩) := by
    rw [matchOffsetVerbatim, Op.andThen_of_ok (setMatchSlot_apply slot s), Op.bind_of_ok hread, Op.andThen_of_ok (Op.modify_apply _ _),
      verbatimOffsetDone_apply]
    rfl
  exact Op.andThen_of_ok hmatch

/-- The aligned path returns and pushes its offset (R215, R217). -/
theorem matchOffsetAligned_of_reads {slot v a : Nat} (h : readBits (footerBits slot - 3) s = .ok v t)
    (ha : decodeSymbol .align t = .ok a u) :
    returnOffset (matchOffsetAligned slot) s = .ok (alignedOffset slot v a)
      ((u.setElt { s.elt with slot := slot, v := v, offset := alignedOffset slot v a }).setRep ⟨alignedOffset slot v a, s.rep.r0, s.rep.r1⟩) := by
  obtain ⟨-, -, q, rfl, -⟩ := readBits_ok h
  obtain ⟨-, -, -, p, rfl, -⟩ := decodeSymbol_ok ha
  have hread := readBits_congr (s := s) (s' := s.setElt { s.elt with slot := slot }) rfl h
  have hsym := decodeSymbol_congr (s := s.setBr q) (s' := (s.setBr q).setElt { s.elt with slot := slot, v := v }) rfl rfl ha
  have hmatch : matchOffsetAligned slot s = .ok () (((s.setBr p).setElt
      { s.elt with slot := slot, v := v, offset := alignedOffset slot v a }).setRep ⟨alignedOffset slot v a, s.rep.r0, s.rep.r1⟩) := by
    rw [matchOffsetAligned, Op.andThen_of_ok (setMatchSlot_apply slot s), Op.bind_of_ok hread, Op.andThen_of_ok (Op.modify_apply _ _)]
    refine (Op.bind_of_ok hsym).trans ?_
    rw [alignedSymbol_apply]
    rfl
  exact Op.andThen_of_ok hmatch

/-! ### The footer field -/

theorem State.alignedPath_iff {slot : Nat} : s.alignedPath slot = true ↔ s.blk.kind = .aligned ∧ 3 ≤ footerBits slot := by
  simp [State.alignedPath]

theorem State.rawOffsetBits_verbatim {slot : Nat} (h : ¬(s.blk.kind = .aligned ∧ 3 ≤ footerBits slot)) :
    s.rawOffsetBits slot = footerBits slot := if_neg (mt State.alignedPath_iff.1 h)

theorem State.rawOffsetBits_aligned {slot : Nat} (h : s.blk.kind = .aligned ∧ 3 ≤ footerBits slot) :
    s.rawOffsetBits slot = footerBits slot - 3 := if_pos (State.alignedPath_iff.2 h)

theorem readRawOffsetBits_of_le {n : Nat} (hbits : s.rawOffsetBits s.elt.slot = n) (h : n ≤ s.br.stream.length) :
    ∃ q, readRawOffsetBits s = .ok () ((s.setBr q).setElt { s.elt with v := bitsValue (s.br.stream.take n) }) ∧ s.br.Advanced q n := by
  obtain ⟨q, hq, ha⟩ := readBits_of_le h
  refine ⟨q, ?_, ha⟩
  rw [readRawOffsetBits, hbits, Op.bind_of_ok hq]
  rfl

/-- Off the aligned path the field completes the offset (R105, R214). -/
theorem footerField_verbatim (hk : ¬(s.blk.kind = .aligned ∧ 3 ≤ footerBits s.elt.slot)) (h : readRawOffsetBits s = .ok () t)
    (hblk : t.blk = s.blk) (hslot : t.elt.slot = s.elt.slot) : footerField s = verbatimOffsetDone t := by
  rw [← hblk, ← hslot] at hk
  rw [footerField, Op.andThen_of_ok h, if_neg (mt State.alignedPath_iff.1 hk)]

/-- On the aligned path the field leaves the raw bits for the aligned symbol (R106, R215). -/
theorem footerField_aligned (hk : s.blk.kind = .aligned ∧ 3 ≤ footerBits s.elt.slot) (h : readRawOffsetBits s = .ok () t)
    (hblk : t.blk = s.blk) (hslot : t.elt.slot = s.elt.slot) : footerField s = .ok () t := by
  rw [← hblk, ← hslot] at hk
  rw [footerField, Op.andThen_of_ok h, if_pos (State.alignedPath_iff.2 hk)]

end

/-- Settles O43: the operations return the offset of the bits read, and a slot's footer bits keep it inside the slot's range. -/
theorem codedOffsets : Obligations.CodedOffsets := by
  refine ⟨fun s slot i hi hn => ?_, fun s t u slot v a h8 h98 hv ha ha8 => ?_, fun s slot h => if_neg h, fun s slot h => if_neg h,
    fun s slot h => if_neg h⟩
  · have hslot : 3 ≤ slot ∧ slot < 98 := by omega
    have hexec : exec i s = (returnOffset (matchOffsetVerbatim slot)).runRet (fun v => .num v.toNat) s := by
      rcases hi with ⟨h3, h98, rfl⟩ | ⟨h3, h7, rfl⟩
      · exact if_pos ⟨h3, h98⟩
      · exact if_pos ⟨h3, h7⟩
    obtain ⟨q, hq, hadv⟩ := readBits_of_le hn
    have hoff := codedOffset_toNat hslot.1 hslot.2 (readBits_ok_lt hq)
    obtain ⟨hpos, hend⟩ := codedOffset_inside hslot.1 (readBits_ok_lt hq) hoff
    exact ⟨q, _, _, hadv, rfl, hoff, hpos, hend, hexec.trans (Op.runRet_of_ok (matchOffsetVerbatim_of_read hq))⟩
  · have hw := alignedBits_lt h8 (readBits_ok_lt hv) ha8
    have hoff : (alignedOffset slot v a).toNat + 2 = basePosition slot + (v * 8 + a) := by
      rw [← codedOffset_toNat (by omega) h98 hw, alignedOffset, Nat.add_assoc]
    obtain ⟨hpos, hend⟩ := codedOffset_inside (by omega) hw hoff
    have hexec : exec (.matchOffsetAligned slot) s = (returnOffset (matchOffsetAligned slot)).runRet (fun v => .num v.toNat) s :=
      if_pos ⟨h8, h98⟩
    exact ⟨_, by omega, hpos, hend, hexec.trans (Op.runRet_of_ok (matchOffsetAligned_of_reads hv ha))⟩

/-- Settles O44: each row is its part of the offset, the footer field on the path the block and the slot call for. -/
theorem offsetFieldRows : Obligations.OffsetFieldRows := by
  refine ⟨fun s hk hn => ?_, fun s hkind h3 hn => ?_, fun s a => ⟨_, rfl, ?_⟩, fun s off => rfl⟩
  · obtain ⟨q, hq, ha⟩ := readRawOffsetBits_of_le (State.rawOffsetBits_verbatim hk) hn
    exact ⟨q, _, _, ha, rfl, rfl, Op.run_of_ok ((footerField_verbatim hk hq rfl rfl).trans (verbatimOffsetDone_apply _))⟩
  · obtain ⟨q, hq, ha⟩ := readRawOffsetBits_of_le (State.rawOffsetBits_aligned ⟨hkind, h3⟩) hn
    exact ⟨q, ha, Op.run_of_ok (footerField_aligned ⟨hkind, h3⟩ hq rfl rfl)⟩
  · rw [Nat.mul_comm 8]
    exact Op.run_of_ok (alignedSymbol_apply a.toNat s)

end Sys2Proof.Machine
end

section
/-! Reading back what a listing carries (R64 to R66, R92, R93, R98, R99, R113, R203): a field at the head of the stream is read as its number. -/

namespace Sys2Proof

/-- A field is its high part, then its low part (R10 (b)). -/
theorem fieldBits_add : ∀ (m n v : Nat), fieldBits (m + n) v = fieldBits m (v / 2 ^ n) ++ fieldBits n v
  | 0, n, v => by rw [Nat.zero_add]; rfl
  | m + 1, n, v => by
    rw [Nat.add_right_comm, fieldBits, fieldBits_add m n v, fieldBits, Nat.testBit_div_two_pow]
    rfl

theorem fieldBits_take (n v : Nat) (rest : List Bool) : (fieldBits n v ++ rest).take n = fieldBits n v :=
  List.take_left' (fieldBits_length n v)

theorem fieldBits_drop (n v : Nat) (rest : List Bool) : (fieldBits n v ++ rest).drop n = rest :=
  List.drop_left' (fieldBits_length n v)

theorem fieldBits_congr {v w : Nat} : ∀ {n : Nat}, v % 2 ^ n = w % 2 ^ n → fieldBits n v = fieldBits n w := by
  intro n h
  rw [← fieldBits_bitsValue (fieldBits n v), ← fieldBits_bitsValue (fieldBits n w), bitsValue_fieldBits, bitsValue_fieldBits,
    fieldBits_length, fieldBits_length, h]

end Sys2Proof

namespace Sys2Proof.Machine

section
variable {s : State} {rest : List Bool}

theorem le_stream_of_append {r : Reader} {bits : List Bool} {n : Nat} (h : r.stream = bits ++ rest) (hn : bits.length = n) :
    n ≤ r.stream.length := by
  rw [h, List.length_append]
  omega

theorem readBits_field {n v : Nat} (h : s.br.stream = fieldBits n v ++ rest) (hv : v < 2 ^ n) :
    ∃ q, readBits n s = .ok v (s.setBr q) ∧ s.br.Advanced q n := by
  obtain ⟨q, hq, ha⟩ := readBits_of_le (le_stream_of_append h (fieldBits_length n v))
  rw [h, fieldBits_take, bitsValue_fieldBits, Nat.mod_eq_of_lt hv] at hq
  exact ⟨q, hq, ha⟩

theorem readHeader_field {tag : Nat} {size : BitVec 24} (h : s.br.stream = fieldBits 27 (headerWord tag size) ++ rest) (htag : tag < 2 ^ 3) :
    ∃ q, readHeader s = .ok (tag, size) (s.setBr q) ∧ s.br.Advanced q 27 := by
  obtain ⟨q, hq, ha⟩ := readHeader_of_le (le_stream_of_append h (fieldBits_length _ _))
  have hsize := size.isLt
  have hhigh : headerWord tag size / 2 ^ 24 = tag := by unfold headerWord; omega
  have hlow : headerWord tag size % 2 ^ 24 = size.toNat := by unfold headerWord; omega
  rw [h, show (27 : Nat) = 3 + 24 from rfl, fieldBits_add, List.append_assoc, fieldBits_take, fieldBits_drop, fieldBits_take,
    bitsValue_fieldBits, bitsValue_fieldBits, hhigh, hlow, Nat.mod_eq_of_lt htag, BitVec.ofNat_toNat, BitVec.setWidth_eq] at hq
  exact ⟨q, hq, ha⟩

theorem readAlignedField_field {l : BitVec 24} (h : s.br.stream = fieldBits 24 l.toNat ++ rest) :
    ∃ q, readAlignedField s = .ok l (s.setBr q) ∧ s.br.Advanced q 24 := by
  obtain ⟨q, hq, ha⟩ := readAlignedField_of_le (le_stream_of_append h (fieldBits_length _ _))
  rw [h, fieldBits_take, bitsValue_fieldBits, Nat.mod_eq_of_lt l.isLt, BitVec.ofNat_toNat, BitVec.setWidth_eq] at hq
  exact ⟨q, hq, ha⟩

theorem readPretreeField_field {l : BitVec 80} (h : s.br.stream = fieldBits 80 l.toNat ++ rest) :
    ∃ q, readPretreeField s = .ok l (s.setBr q) ∧ s.br.Advanced q 80 := by
  obtain ⟨q, hq, ha⟩ := readPretreeField_of_le (le_stream_of_append h (fieldBits_length _ _))
  rw [h, fieldBits_take, bitsValue_fieldBits, Nat.mod_eq_of_lt l.isLt, BitVec.ofNat_toNat, BitVec.setWidth_eq] at hq
  exact ⟨q, hq, ha⟩

end

/-! ### Offsets stored as bytes (R66, R134, R203) -/

theorem word_toNat (high low : Byte) : (high ++ low : Word16).toNat = high.toNat * 2 ^ 8 + low.toNat := by
  rw [BitVec.toNat_append, ← Nat.shiftLeft_add_eq_or_of_lt low.isLt, Nat.shiftLeft_eq]

/-- A 32-bit value's bytes carry its low half, then its high half. -/
theorem Reader.stream_load_u32Bytes (v : BitVec 32) (tail : List Byte) :
    (Reader.load (u32Bytes v ++ tail)).stream = fieldBits 16 v.toNat ++ (fieldBits 16 (v.toNat / 2 ^ 16) ++ (Reader.load tail).stream) := by
  have hlow : (v.extractLsb' 8 8 ++ v.extractLsb' 0 8 : Word16).toNat % 2 ^ 16 = v.toNat % 2 ^ 16 := by
    rw [word_toNat, BitVec.extractLsb'_toNat, BitVec.extractLsb'_toNat, Nat.shiftRight_eq_div_pow, Nat.shiftRight_eq_div_pow]
    omega
  have hhigh : (v.extractLsb' 24 8 ++ v.extractLsb' 16 8 : Word16).toNat % 2 ^ 16 = v.toNat / 2 ^ 16 % 2 ^ 16 := by
    rw [word_toNat, BitVec.extractLsb'_toNat, BitVec.extractLsb'_toNat, Nat.shiftRight_eq_div_pow, Nat.shiftRight_eq_div_pow]
    omega
  show (Reader.load (_ :: _ :: _ :: _ :: tail)).stream = _
  rw [Reader.stream_load_cons, Reader.stream_load_cons, fieldBits_congr hlow, fieldBits_congr hhigh]

theorem u32Value_halves (v : BitVec 32) (rest : List Bool) :
    u32Value (fieldBits 16 v.toNat ++ (fieldBits 16 (v.toNat / 2 ^ 16) ++ rest)) = v := by
  have hv := v.isLt
  apply BitVec.eq_of_toNat_eq
  rw [u32Value_toNat, fieldBits_take, fieldBits_drop, fieldBits_take, bitsValue_fieldBits, bitsValue_fieldBits]
  omega

/-- Three offsets stored at a word boundary are read back (R95, R203). -/
theorem readOffsetValues_stored {s : State} {r0 r1 r2 : Word32} {tail : List Byte}
    (h : s.br.stream = (Reader.load (u32Bytes r0 ++ (u32Bytes r1 ++ (u32Bytes r2 ++ tail)))).stream) :
    ∃ q, readOffsetValues s = .ok (r0, r1, r2) (s.setBr q) ∧ s.br.Advanced q 96 := by
  have hdrop : ∀ (v : BitVec 32) (rest : List Bool),
      (fieldBits 16 v.toNat ++ (fieldBits 16 (v.toNat / 2 ^ 16) ++ rest)).drop 32 = rest := fun v rest => by
    rw [← List.append_assoc]
    exact List.drop_left' (by simp)
  simp only [Reader.stream_load_u32Bytes] at h
  obtain ⟨q, hq, ha⟩ := readOffsetValues_of_le (s := s) (by rw [h]; simp; omega)
  rw [show (64 : Nat) = 32 + 32 from rfl, ← List.drop_drop, h, hdrop, hdrop, u32Value_halves, u32Value_halves, u32Value_halves] at hq
  exact ⟨q, hq, ha⟩

end Sys2Proof.Machine
end

section
/-! A table row's word put where the next step reads it (log 9): the place built for each format carries the word. -/

namespace Sys2Proof.Machine

section
variable {s : State} {w : Nat}

/-- The bytes of a listing's bits deliver these bits first (R113). -/
theorem Reader.stream_load_bits (bits : List Bool) : ∃ rest, (Reader.load (bytesOfBits bits)).stream = bits ++ rest := by
  obtain ⟨pad, -, -, hs⟩ := Reader.stream_load_bytesOfBits bits []
  exact ⟨_, by rw [List.append_nil, List.append_assoc] at hs; exact hs⟩

theorem reads_placed_chunkPrefix (hw : w < 2 ^ 1) : ∃ t, Reads (s.placed .chunkPrefix w) .chunkPrefix w t := by
  obtain ⟨rest, hs⟩ := Reader.stream_load_bits (fieldBits 1 w ++ List.replicate 31 false)
  rw [List.append_assoc] at hs
  obtain ⟨q, hq, -⟩ := readBits_field (s := s.placed .chunkPrefix w) hs hw
  exact ⟨_, hq⟩

theorem reads_placed_blockHeader (hw : w < 2 ^ 27) : ∃ t, Reads (s.placed .blockHeader w) .blockHeader w t := by
  obtain ⟨rest, hs⟩ := Reader.stream_load_bits (fieldBits 27 w ++ List.replicate 37 false)
  rw [List.append_assoc] at hs
  obtain ⟨q, hq, -⟩ := readHeader_field (s := s.placed .blockHeader w) (tag := w / 2 ^ 24) (size := BitVec.ofNat 24 w)
    (by rw [headerWord_split]; exact hs) (by omega)
  exact ⟨_, _, _, hq, headerWord_split.symm⟩

theorem reads_placed_alignedLengths (hw : w < 2 ^ 24) : ∃ t, Reads (s.placed .alignedLengths w) .alignedLengths w t := by
  have hl : (BitVec.ofNat 24 w).toNat = w := Nat.mod_eq_of_lt hw
  obtain ⟨rest, hs⟩ := Reader.stream_load_bits (fieldBits 24 w ++ List.replicate 24 false)
  rw [List.append_assoc] at hs
  obtain ⟨q, hq, -⟩ := readAlignedField_field (s := s.placed .alignedLengths w) (l := BitVec.ofNat 24 w) (by rw [hl]; exact hs)
  exact ⟨_, _, hq, hl.symm⟩

theorem reads_placed_pretreeLengths (hw : w < 2 ^ 80) : ∃ t, Reads (s.placed .pretreeLengths w) .pretreeLengths w t := by
  have hl : (BitVec.ofNat 80 w).toNat = w := Nat.mod_eq_of_lt hw
  obtain ⟨rest, hs⟩ := Reader.stream_load_bits (fieldBits 80 w ++ List.replicate 16 false)
  rw [List.append_assoc] at hs
  obtain ⟨q, hq, -⟩ := readPretreeField_field (s := s.placed .pretreeLengths w) (l := BitVec.ofNat 80 w) (by rw [hl]; exact hs)
  exact ⟨_, _, hq, hl.symm⟩

theorem reads_placed_rValues (hw : w < 2 ^ Format.rValues.width) : ∃ t, Reads (s.placed .rValues w) .rValues w t := by
  obtain ⟨q, hq, -⟩ := readOffsetValues_stored (s := s.placed .rValues w) (r0 := BitVec.ofNat 32 (w / 2 ^ 64))
    (r1 := BitVec.ofNat 32 (w / 2 ^ 32)) (r2 := BitVec.ofNat 32 w) (tail := []) rfl
  exact ⟨_, _, _, _, hq, (rValuesWord_split hw).symm⟩

/-! ### Symbols -/

theorem twoSymbolTable_present (n sym : Nat) : (twoSymbolTable n sym).present = true := by unfold twoSymbolTable; split <;> rfl

theorem twoSymbolTable_maxLength (n sym : Nat) : (twoSymbolTable n sym).maxLength = 1 := by unfold twoSymbolTable; split <;> rfl

theorem twoSymbolTable_tab (n sym : Nat) : (twoSymbolTable n sym).tab[(decide (sym ≠ 0)).toNat]? = some sym := by
  unfold twoSymbolTable
  by_cases h : sym = 0
  · rw [if_pos h, h]; rfl
  · rw [if_neg h, decide_eq_true h]; rfl

theorem twoSymbolTable_lenAt_le (n sym : Nat) : lenAt (twoSymbolTable n sym).lens sym ≤ 1 := by
  have hset : ∀ {lens : List Nat} {i : Nat}, (∀ L ∈ lens, L ≤ 1) → ∀ L ∈ lens.set i 1, L ≤ 1 := fun h L hL =>
    (List.mem_or_eq_of_mem_set hL).elim (h L) Nat.le_of_eq
  have hzero : ∀ L ∈ List.replicate n 0, L ≤ 1 := fun L hL => (List.eq_of_mem_replicate hL).trans_le (Nat.zero_le 1)
  have hall : ∀ L ∈ (twoSymbolTable n sym).lens, L ≤ 1 := by
    unfold twoSymbolTable
    split
    · exact hset (hset hzero)
    · exact hset (hset hzero)
  exact lenAt_le_maxLen.trans (maxLen_le hall)

/-- At a place whose table and input are those of two symbols, the symbol is decoded (R164). -/
theorem decodeSymbol_twoSymbol {k : TableKind} {n sym : Nat} (ht : s.table k = twoSymbolTable n sym)
    (hb : s.br = Reader.load (bytesOfBits (twoSymbolBits sym))) : ∃ t, decodeSymbol k s = .ok sym t := by
  obtain ⟨rest, hs⟩ := Reader.stream_load_bits (twoSymbolBits sym)
  have hcons : s.br.stream = decide (sym ≠ 0) :: (List.replicate 95 false ++ rest) := by rw [hb, hs]; rfl
  have hlen : 1 ≤ s.br.stream.length := by rw [hcons]; simp
  have hidx : bitsValue (s.br.peekStream.take 1) = (decide (sym ≠ 0)).toNat := by
    rw [Reader.peekStream_take (by omega) hlen, hcons]
    simp [bitsValue]
  rcases decodeSymbol_of_lookup (k := k) (sym := sym) (s := s) (by rw [ht, twoSymbolTable_present])
    (by rw [ht, twoSymbolTable_maxLength]; omega) (by rw [ht, twoSymbolTable_maxLength, hidx, twoSymbolTable_tab]) with ⟨-, q, hq, -⟩ | ⟨hlt, -⟩
  · exact ⟨_, hq⟩
  · rw [ht] at hlt
    have hle := twoSymbolTable_lenAt_le n sym
    omega

theorem reads_placed_pretreeSymbol : ∃ t, Reads (s.placed .pretreeSymbol w) .pretreeSymbol w t :=
  decodeSymbol_twoSymbol (k := .pre) rfl rfl

theorem reads_placed_mainSymbol : ∃ t, Reads (s.placed .mainSymbol w) .mainSymbol w t := by
  obtain ⟨t, ht⟩ := decodeSymbol_twoSymbol (s := s.placed .mainSymbol w) (k := .main) rfl rfl
  exact ⟨t, (fun h => by cases h), ht⟩

/-- The place built for a row's format reads the row's word, whatever state it is built from. -/
theorem reads_placed {nbits : Nat} {f : Format} (hf : formatOfWidth nbits = some f) (hw : w < 2 ^ f.width) :
    ∃ t, Reads (s.placed f w) f w t := by
  unfold formatOfWidth at hf
  split at hf <;> cases hf
  case h_1 => exact reads_placed_chunkPrefix hw
  case h_2 | h_3 => exact reads_placed_pretreeSymbol
  case h_4 | h_5 => exact reads_placed_mainSymbol
  case h_6 => exact reads_placed_alignedLengths hw
  case h_7 | h_8 => exact reads_placed_blockHeader hw
  case h_9 => exact reads_placed_pretreeLengths hw
  case h_10 => exact reads_placed_rValues hw

end

theorem decodeTableWord_some {nbits w : Nat} {i : Instr} (h : decodeTableWord nbits w = some i) :
    ∃ f, formatOfWidth nbits = some f ∧ decode f w = .ok i := by
  unfold decodeTableWord at h
  split at h
  · cases h
  · next f hf =>
    split at h <;> cases h
    next hd => exact ⟨f, hf, hd⟩

/-- Settles O9: the placed word is read at its place, and what a place reads is fetched and run (O5). -/
theorem placedWordIsFetched : Obligations.PlacedWordIsFetched := by
  intro nbits w i h
  obtain ⟨f, hf, hd⟩ := decodeTableWord_some h
  obtain ⟨t, ht⟩ := reads_placed (s := State.reset) hf (decode_fits hd)
  have hplaced : State.reset.withFetchWord nbits w = State.reset.placed f w := by rw [State.withFetchWord, hf]
  rw [hplaced]
  exact ⟨t, fetch_of_reads ht hd, stepRunsDecodedInstruction _ t f w i ht hd⟩

end Sys2Proof.Machine
end

section
/-! A stored chunk decodes (R91 to R95, R117, R203, R208, R263 to R272): where each of its parts begins, and what the one pass of the loop
does with it. -/

namespace Sys2Proof.Machine

/-! ### A reader inside its input -/

theorem Reader.wordBits_drop (r : Reader) (p : Nat) : ∀ k a : Nat, r.wordBits k (p + a) = (Reader.load (r.data.drop p)).wordBits k a
  | 0, _ => rfl
  | k + 1, a => by
    have hbyte : ∀ a, r.byteAt (p + a) = (Reader.load (r.data.drop p)).byteAt a := fun a => by
      simp only [Reader.byteAt, Reader.load, List.getD_eq_getElem?_getD, List.getElem?_drop]
    have hword : r.wordAt (p + a) = (Reader.load (r.data.drop p)).wordAt a := by
      rw [Reader.wordAt, Reader.wordAt, Nat.add_assoc, hbyte, hbyte]
    rw [Reader.wordBits, Reader.wordBits, hword, Nat.add_assoc, Reader.wordBits_drop r p k (a + 2)]

/-- With no bits pending a reader delivers what a fresh reader on the rest of its input would (R25, R68). -/
theorem Reader.stream_of_boundary {r : Reader} (h0 : r.bitsLeft = 0) (hlen : r.len = r.data.length) :
    r.stream = (Reader.load (r.data.drop r.bytePos)).stream := by
  have hwords : (r.len - r.bytePos) / 2 = ((r.data.drop r.bytePos).length - 0) / 2 := by rw [List.length_drop, hlen, Nat.sub_zero]
  rw [Reader.stream, Reader.pending, h0, hwords, ← Nat.add_zero r.bytePos, Reader.wordBits_drop]
  rfl

/-- Bytes taken up to the end of the input are the rest of it (R67). -/
theorem Reader.bytes_to_end {r : Reader} {rest : List Byte} (h : r.data.drop r.bytePos = rest) :
    ((List.range rest.length).map fun k => r.byteAt (r.bytePos + k)) = rest := by
  refine List.ext_getElem (by simp) fun k hk hk' => ?_
  rw [List.getElem_map, List.getElem_range, Reader.byteAt, List.getD_eq_getElem?_getD, ← List.getElem?_drop, h, List.getElem?_eq_getElem hk']
  rfl

theorem packWords_length : ∀ (n : Nat) (bits : List Bool), bits.length ≤ n → (packWords n bits).length = 2 * ((bits.length + 15) / 16)
  | 0, bits, h => by
    obtain rfl := List.length_eq_zero_iff.1 (Nat.le_zero.1 h)
    rfl
  | n + 1, [], _ => rfl
  | n + 1, b :: bs, h => by
    have hd : ((b :: bs).drop 16).length ≤ n := by rw [List.length_drop, List.length_cons] at *; omega
    have ih := packWords_length n _ hd
    rw [List.length_drop] at ih
    show (packWords n ((b :: bs).drop 16)).length + 1 + 1 = _
    rw [ih, List.length_cons]
    omega

/-- A listing takes whole words (R113). -/
theorem bytesOfBits_length (bits : List Bool) : (bytesOfBits bits).length = 2 * ((bits.length + 15) / 16) :=
  packWords_length _ bits (Nat.le_refl _)

theorem u32Bytes_length (v : BitVec 32) : (u32Bytes v).length = 4 := rfl

/-! ### Where the parts of a stored chunk begin -/

/-- The bits of the header, behind the E8 flag of a first chunk (R92, R93). -/
def storedHeaderBits (first : Bool) (n : Nat) : List Bool :=
  (if first then [false] else []) ++ fieldBits 27 (headerWord 3 (BitVec.ofNat 24 n))

section
variable {first : Bool} {pad payload : List Byte} {r0 r1 r2 : Word32}

theorem storedHeaderBits_bytes (first : Bool) (n : Nat) : (bytesOfBits (storedHeaderBits first n)).length = 4 := by
  rw [bytesOfBits_length, storedHeaderBits, List.length_append, fieldBits_length]
  cases first <;> rfl

theorem storedChunk_eq : storedChunk first pad r0 r1 r2 payload =
    pad ++ (bytesOfBits (storedHeaderBits first payload.length) ++ (u32Bytes r0 ++ (u32Bytes r1 ++ (u32Bytes r2 ++ payload)))) := by
  simp only [storedChunk, storedHeaderBits, List.append_assoc]

theorem storedChunk_length : (storedChunk first pad r0 r1 r2 payload).length = pad.length + 16 + payload.length := by
  simp only [storedChunk_eq, List.length_append, storedHeaderBits_bytes, u32Bytes_length]
  omega

theorem storedChunk_drop_pad : (storedChunk first pad r0 r1 r2 payload).drop pad.length =
    bytesOfBits (storedHeaderBits first payload.length) ++ (u32Bytes r0 ++ (u32Bytes r1 ++ (u32Bytes r2 ++ payload))) := by
  rw [storedChunk_eq, List.drop_left]

theorem storedChunk_drop_header : (storedChunk first pad r0 r1 r2 payload).drop (pad.length + 4) =
    u32Bytes r0 ++ (u32Bytes r1 ++ (u32Bytes r2 ++ payload)) := by
  rw [← List.drop_drop, storedChunk_drop_pad, List.drop_left' (storedHeaderBits_bytes _ _)]

end

/-- The reader stands before the 27 bits of a stored block's header, and `body` is where whole bytes go on behind them (R93, R137): the bits
begin a word, or follow the E8 flag in the word that holds it. -/
structure Reader.AtStoredHeader (r : Reader) (data : List Byte) (n body : Nat) : Prop where
  data_eq : r.data = data
  len_eq : r.len = data.length
  header : ∃ rest, r.stream = fieldBits 27 (headerWord 3 (BitVec.ofNat 24 n)) ++ rest
  place : (r.bitsLeft = 0 ∧ r.bytePos + 4 = body) ∨ (r.bitsLeft = 15 ∧ r.bytePos + 2 = body)

/-- Behind the header bits are pending, so the padding is what is left of their word (R95, R137). -/
theorem Reader.AtStoredHeader.align {r q : Reader} {data : List Byte} {n body : Nat} (h : r.AtStoredHeader data n body)
    (ha : r.Advanced q 27) : q.align.data = data ∧ q.align.len = data.length ∧ q.align.bitsLeft = 0 ∧ q.align.bytePos = body := by
  have hcount := ha.counted
  have hfetch := ha.fetched
  have hplace := h.place
  rw [Reader.align_of_pending (by omega)]
  refine ⟨ha.data.trans h.data_eq, ha.len.trans h.len_eq, rfl, ?_⟩
  dsimp only
  omega

section
variable {pad payload : List Byte} {r0 r1 r2 : Word32}

/-- A fresh reader delivers the E8 flag, where there is one, and the header. -/
theorem Reader.stream_load_storedChunk {first : Bool} (r : Reader) (hdata : r.data = storedChunk first pad r0 r1 r2 payload)
    (hlen : r.len = r.data.length) (h0 : r.bitsLeft = 0) (hpos : r.bytePos = pad.length) :
    ∃ rest, r.stream = storedHeaderBits first payload.length ++ rest := by
  obtain ⟨fill, -, -, hs⟩ := Reader.stream_load_bytesOfBits (storedHeaderBits first payload.length)
    (u32Bytes r0 ++ (u32Bytes r1 ++ (u32Bytes r2 ++ payload)))
  rw [Reader.stream_of_boundary h0 hlen, hdata, hpos, storedChunk_drop_pad, hs, List.append_assoc]
  exact ⟨_, rfl⟩

/-- At the pad byte's end, or at the start of a chunk without an E8 flag, the header comes next. -/
theorem Reader.atStoredHeader_flagless (r : Reader) (hdata : r.data = storedChunk false pad r0 r1 r2 payload)
    (hlen : r.len = r.data.length) (h0 : r.bitsLeft = 0) (hpos : r.bytePos = pad.length) :
    r.AtStoredHeader (storedChunk false pad r0 r1 r2 payload) payload.length (pad.length + 4) where
  data_eq := hdata
  len_eq := by rw [hlen, hdata]
  header := r.stream_load_storedChunk hdata hlen h0 hpos
  place := .inl ⟨h0, by rw [hpos]⟩

/-- A first chunk: behind the E8 flag, which is 0, the header comes next. -/
theorem readE8_stored {s : State} (hfirst : s.firstChunk = true) (hbr : s.br = Reader.load (storedChunk true [] r0 r1 r2 payload)) :
    ∃ q, readE8 s = .ok () (s.setBr q) ∧ q.AtStoredHeader (storedChunk true [] r0 r1 r2 payload) payload.length 4 := by
  obtain ⟨rest, hs⟩ := Reader.stream_load_storedChunk (pad := []) s.br (by rw [hbr]; rfl) (by rw [hbr]; rfl) (by rw [hbr]; rfl) (by rw [hbr]; rfl)
  have hflag : s.br.stream = fieldBits 1 0 ++ (fieldBits 27 (headerWord 3 (BitVec.ofNat 24 payload.length)) ++ rest) := by rw [hs]; rfl
  obtain ⟨q, hq, ha⟩ := readBits_field hflag (by omega)
  have hcount := ha.counted
  have hfetch := ha.fetched
  have h0 : s.br.bitsLeft = 0 := by rw [hbr]; rfl
  have hpos : s.br.bytePos = 0 := by rw [hbr]; rfl
  refine ⟨q, ?_, ?_⟩
  · rw [readE8, if_pos hfirst, Op.bind_of_ok hq]
    rfl
  · exact { data_eq := ha.data.trans (by rw [hbr]; rfl)
            len_eq := ha.len.trans (by rw [hbr]; rfl)
            header := ⟨rest, by rw [ha.stream, hflag, fieldBits_drop]⟩
            place := .inr (by omega) }

theorem readE8_later {s : State} (h : s.firstChunk = false) : readE8 s = .ok () s := by rw [readE8, h]; rfl

theorem skipOwedPadByte_none {s : State} (h : s.padOwed = false) : skipOwedPadByte s = .ok () s := by rw [skipOwedPadByte, h]; rfl

theorem skipOwedPadByte_owed {s : State} (h : s.padOwed = true) (hlen : s.br.bytePos + 1 ≤ s.br.len) :
    skipOwedPadByte s = .ok () (s.setBr { s.br with bytePos := s.br.bytePos + 1 }) := by
  rw [skipOwedPadByte, if_pos h, skipPadByte, Op.bind_of_ok (readByte_ok hlen)]
  rfl

/-- The E8 flag and the pad byte, read from a fresh reader: the header comes next (R92, R117, R265, R267). -/
theorem storedPrefix {s : State} (hbr : s.br = Reader.load (storedChunk (decide (s.decodedChunks = 0)) pad r0 r1 r2 payload))
    (hpad : pad.length = if s.padOwed then 1 else 0) (hfirst : s.decodedChunks = 0 → s.padOwed = false) :
    ∃ p q, readE8 s = .ok () (s.setBr p) ∧ skipOwedPadByte (s.setBr p) = .ok () (s.setBr q) ∧
      q.AtStoredHeader (storedChunk (decide (s.decodedChunks = 0)) pad r0 r1 r2 payload) payload.length (pad.length + 4) := by
  by_cases hc : s.decodedChunks = 0
  · have hnone : s.padOwed = false := hfirst hc
    obtain rfl : pad = [] := List.length_eq_zero_iff.1 (by rw [hpad, hnone]; rfl)
    rw [decide_eq_true hc] at hbr ⊢
    obtain ⟨q, hq, hat⟩ := readE8_stored (by simp [State.firstChunk, hc]) hbr
    exact ⟨q, q, hq, skipOwedPadByte_none hnone, hat⟩
  · rw [decide_eq_false hc] at hbr ⊢
    have hlater : readE8 s = .ok () s := readE8_later (by simp [State.firstChunk, hc])
    cases hp : s.padOwed with
    | false =>
      obtain rfl : pad = [] := List.length_eq_zero_iff.1 (by rw [hpad, hp]; rfl)
      exact ⟨s.br, s.br, hlater, skipOwedPadByte_none hp,
        s.br.atStoredHeader_flagless (by rw [hbr]; rfl) (by rw [hbr]; rfl) (by rw [hbr]; rfl) (by rw [hbr]; rfl)⟩
    | true =>
      rw [hp, if_pos rfl] at hpad
      have hlen : s.br.bytePos + 1 ≤ s.br.len := by
        have := storedChunk_length (first := false) (pad := pad) (payload := payload) (r0 := r0) (r1 := r1) (r2 := r2)
        rw [hbr]
        show 0 + 1 ≤ (storedChunk false pad r0 r1 r2 payload).length
        omega
      exact ⟨s.br, _, hlater, skipOwedPadByte_owed hp hlen,
        Reader.atStoredHeader_flagless _ (by rw [hbr]; rfl) (by rw [hbr]; rfl) (by rw [hbr]; rfl) (by rw [hbr, hpad]; rfl)⟩

/-! ### The block and its one element -/

theorem blockHeader_three (size : BitVec 24) (s : State) : blockHeader 3 size s = .ok () (s.setHdr ⟨.uncompressed, size.toNat⟩) := rfl

/-- The block becomes the current one with the stored offsets and owes the whole payload (R201, R203). -/
theorem readBlock_stored {s : State} {data : List Byte} {body : Nat} (hat : s.br.AtStoredHeader data payload.length body)
    (hbody : data.drop body = u32Bytes r0 ++ (u32Bytes r1 ++ (u32Bytes r2 ++ payload))) (h1 : 1 ≤ payload.length)
    (hsmall : payload.length < 2 ^ 24) :
    ∃ q, readBlock s = .ok () (((s.setBr q).setHdr ⟨.uncompressed, payload.length⟩).setBlk
        ⟨.uncompressed, payload.length, payload.length, r0, r1, r2⟩) ∧
      q.data = data ∧ q.len = data.length ∧ q.bytePos = body + 12 := by
  obtain ⟨rest, hs⟩ := hat.header
  obtain ⟨p, hp, ha⟩ := readHeader_field hs (by omega)
  obtain ⟨hdata, hlen, h0, hpos⟩ := hat.align ha
  have hsize : (BitVec.ofNat 24 payload.length).toNat = payload.length := Nat.mod_eq_of_lt hsmall
  obtain ⟨q, hq, hb⟩ := readOffsetValues_stored (s := ((s.setBr p).setHdr ⟨.uncompressed, payload.length⟩).setBr p.align) (r0 := r0) (r1 := r1)
    (r2 := r2) (tail := payload) (by
      show p.align.stream = _
      rw [Reader.stream_of_boundary h0 (by rw [hdata, hlen]), hdata, hpos, hbody])
  refine ⟨q, ?_, hb.data.trans hdata, hb.len.trans hlen, ?_⟩
  · have hheader : (readHeader.bind fun h => blockHeader h.1 h.2) s = .ok () ((s.setBr p).setHdr ⟨.uncompressed, payload.length⟩) := by
      rw [Op.bind_of_ok hp, blockHeader_three, hsize]
    have hread : readBody ((s.setBr p).setHdr ⟨.uncompressed, payload.length⟩) =
        .ok () (((s.setBr q).setHdr ⟨.uncompressed, payload.length⟩).setBlk { s.blk with r0 := r0, r1 := r1, r2 := r2 }) :=
      (readUncompressedBody_apply _).trans ((Op.bind_of_ok hq).trans rfl)
    rw [readBlock, Op.andThen_of_ok hheader, Op.andThen_of_ok hread]
    exact if_neg (by show payload.length ≠ 0; omega)
  · have hfetch := hb.fetched
    rw [show (State.setBr _ p.align).br = p.align from rfl, h0, hpos] at hfetch
    exact hfetch

theorem account_of_le {n : Nat} {s : State} (h : n ≤ s.blk.remaining) : account n s =
    .ok () ((s.setBlk { s.blk with remaining := s.blk.remaining - n }).setCmd { s.cmd with produced := s.cmd.produced + n }) :=
  if_neg (Nat.not_lt.2 h)

/-- The element of a stored block: all its bytes, to the window (R208, R244, R268, R269). -/
theorem storedElement {s : State} (hblk : s.blk = ⟨.uncompressed, payload.length, payload.length, r0, r1, r2⟩)
    (hbytes : s.br.data.drop s.br.bytePos = payload) (hlen : s.br.len = s.br.data.length) (h1 : 1 ≤ payload.length) :
    (decodeElement.bind takeElement) s =
      .ok () (((((s.setRep ⟨r0, r1, r2⟩).setBr { s.br with bytePos := s.br.bytePos + payload.length }).setWin
        (s.win.pushAll s.cfg.windowSize payload)).setBlk ⟨.uncompressed, payload.length, 0, r0, r1, r2⟩).setCmd
        { s.cmd with produced := s.cmd.produced + payload.length }) := by
  have hcount := congrArg List.length hbytes
  rw [List.length_drop, ← hlen] at hcount
  have hdecode : decodeElement s = .ok (.bulkRead payload.length) (s.setRep ⟨r0, r1, r2⟩) := by
    have hmin : min s.blk.remaining s.br.remaining = payload.length := by rw [hblk, Reader.remaining, hcount, Nat.min_self]
    rw [decodeElement, if_pos (by rw [hblk]), decodeUncompressed, Op.andThen_of_ok (Op.modify_apply _ s)]
    simp only [State.setRep_blk, State.setRep_br, hmin]
    rw [if_neg (by omega), hblk]
  have hcopy := copyFromBitstream_ok (n := payload.length) (s := s.setRep ⟨r0, r1, r2⟩)
    (by simp only [State.setRep_br]; omega)
  simp only [State.setRep_br, State.setRep_win, State.setRep_cfg, Reader.bytes_to_end hbytes] at hcopy
  rw [Op.bind_of_ok hdecode, takeElement, Op.andThen_of_ok (show applyElement (.bulkRead payload.length) _ = _ from hcopy)]
  have haccount := account_of_le (s := ((s.setRep ⟨r0, r1, r2⟩).setBr { s.br with bytePos := s.br.bytePos + payload.length }).setWin
    (s.win.pushAll s.cfg.windowSize payload)) (n := payload.length) (by show payload.length ≤ s.blk.remaining; rw [hblk])
  have hspent : ({ s.blk with remaining := s.blk.remaining - payload.length } : Block) = ⟨.uncompressed, payload.length, 0, r0, r1, r2⟩ := by
    rw [hblk, Nat.sub_self]
  rw [← hspent]
  exact haccount

end

theorem chunkLoop_done {s : State} (h : s.wantsMore = false) : ∀ n : Nat, chunkLoop n s = .ok () s
  | 0 => rfl
  | _ + 1 => if_neg (by simp [h])

/-- One pass that produces all that is wanted ends the loop (R266). -/
theorem chunkLoop_one_pass {s t : State} {n : Nat} (hn : 1 ≤ n) (hs : s.wantsMore = true) (hpass : loopPass s = .ok () t)
    (ht : t.wantsMore = false) : chunkLoop n s = .ok () t := by
  obtain ⟨m, rfl⟩ : ∃ m, n = m + 1 := ⟨n - 1, by omega⟩
  exact (if_pos hs).trans ((Op.andThen_of_ok hpass).trans (chunkLoop_done ht m))

/-! ### The command -/

section
variable {s : State} {pad payload : List Byte} {r0 r1 r2 : Word32}

/-- The state that a stored chunk's elements leave, the reader's place apart. -/
def State.stored (s : State) (q : Reader) (r0 r1 r2 : Word32) (payload : List Byte) : State :=
  { s with
    br := q
    hdr := ⟨.uncompressed, payload.length⟩
    rep := ⟨r0, r1, r2⟩
    blk := ⟨.uncompressed, payload.length, 0, r0, r1, r2⟩
    win := s.win.pushAll s.cfg.windowSize payload
    cmd := { s.cmd with produced := s.cmd.produced + payload.length } }

theorem loopPass_stored {p q : Reader} {data : List Byte} {body : Nat} (hdue : s.blk.remaining = 0)
    (hpad : skipOwedPadByte (s.setBr p) = .ok () (s.setBr q)) (hat : q.AtStoredHeader data payload.length body)
    (hbody : data.drop body = u32Bytes r0 ++ (u32Bytes r1 ++ (u32Bytes r2 ++ payload))) (h1 : 1 ≤ payload.length)
    (hsmall : payload.length < 2 ^ 24) : ∃ q', loopPass (s.setBr p) = .ok () (s.stored q' r0 r1 r2 payload) := by
  obtain ⟨o, ho, hdata, hlen, hpos⟩ := readBlock_stored (s := s.setBr q) hat hbody h1 hsmall
  have hrest : data.drop o.bytePos = payload := by
    rw [hpos, show body + 12 = body + 4 + 4 + 4 by omega, ← List.drop_drop, ← List.drop_drop, ← List.drop_drop, hbody,
      List.drop_left' (u32Bytes_length r0), List.drop_left' (u32Bytes_length r1), List.drop_left' (u32Bytes_length r2)]
  have hstart : startBlock (s.setBr p) = .ok () ((((s.setBr q).setBr o).setHdr ⟨.uncompressed, payload.length⟩).setBlk
      ⟨.uncompressed, payload.length, payload.length, r0, r1, r2⟩) := by
    have hexhausted : (s.setBr p).blockExhausted = true := by simp [State.blockExhausted, hdue]
    rw [startBlock, if_pos hexhausted, Op.andThen_of_ok hpad, ho]
  refine ⟨{ o with bytePos := o.bytePos + payload.length }, ?_⟩
  rw [loopPass, Op.andThen_of_ok hstart, storedElement (payload := payload) (r0 := r0) (r1 := r1) (r2 := r2) rfl
    (show o.data.drop o.bytePos = payload by rw [hdata, hrest]) (show o.len = o.data.length by rw [hlen, hdata]) h1]
  unfold State.stored State.setCmd State.setBlk State.setWin State.setRep State.setBr State.setHdr
  rfl

theorem refusal?_of_live {len outputSize : Nat} (h : s.Live) (hout : outputSize ≤ Config.outputMax) (hlen : len ≤ Config.inMaxBytes) :
    refusal? len outputSize s = none := by
  simp [refusal?, h.1, State.faulted, h.2, Nat.not_lt.2 hout, Nat.not_lt.2 hlen]

theorem State.Inv.windowSize_ge (h : s.Inv) : 2 ^ 17 ≤ s.cfg.windowSize := by
  have hall : ∀ entry ∈ positionSlotsTable, 2 ^ 17 ≤ entry.1 := by decide
  exact hall _ h.legal

/-- Before the first chunk no block has been read, so no pad byte is owed (R29, R267). -/
theorem State.Inv.no_pad_first (h : s.Inv) (hlive : s.Live) (hidle : s.phase = .idle) (hc : s.decodedChunks = 0) : s.padOwed = false := by
  have hplace := h.place hlive
  rw [State.PhaseFits, hidle] at hplace
  simp [State.padOwed, hplace hc]

theorem finishChunk_of_view {out : List Byte} (h : s.win.view s.cfg.windowSize s.cmd.outputSize = out) : finishChunk s = .ok ()
    { s with
      out := out
      chunkOffset := advanceChunkOffset s.chunkOffset s.cmd.outputSize
      decodedChunks := countChunk s.decodedChunks
      result := if s.cmd.wantBytes then .bytes out else .bytesWritten s.cmd.outputSize } := by
  subst h
  rfl

/-- The whole command on a stored chunk (R263), up to what the reader's registers keep. -/
theorem runChunk_stored (hinv : s.Inv) (hlive : s.Live) (hidle : s.phase = .idle) (hdue : s.blk.remaining = 0)
    (hpad : pad.length = if s.padOwed then 1 else 0) (h1 : 1 ≤ payload.length) (hmax : payload.length ≤ 32768) {data : List Byte}
    (hdata : data = storedChunk (decide (s.decodedChunks = 0)) pad r0 r1 r2 payload) (wantBytes : Bool) :
    ∃ q, runChunk data payload.length wantBytes s = .next
      { (startChunk data payload.length wantBytes s).stored q r0 r1 r2 payload with
        out := payload
        chunkOffset := advanceChunkOffset s.chunkOffset payload.length
        decodedChunks := countChunk s.decodedChunks
        result := if wantBytes then .bytes payload else .bytesWritten payload.length } := by
  have hlen : data.length ≤ Config.inMaxBytes := by
    rw [hdata, storedChunk_length, hpad]
    unfold Config.inMaxBytes
    split <;> omega
  have hrefusal : refusal? data.length payload.length s = none := refusal?_of_live hlive hmax hlen
  generalize hstart : startChunk data payload.length wantBytes s = start
  have hblk : start.blk = s.blk := by rw [← hstart]; rfl
  have hcount : start.decodedChunks = s.decodedChunks := by rw [← hstart]; rfl
  have howed : start.padOwed = s.padOwed := by rw [State.padOwed, hblk]; rfl
  have hcmd : start.cmd = ⟨payload.length, 0, wantBytes⟩ := by rw [← hstart]; rfl
  obtain ⟨p, q, he8, hskip, hat⟩ := storedPrefix (s := start) (pad := pad) (payload := payload) (r0 := r0) (r1 := r1) (r2 := r2)
    (by rw [← hstart, hdata]; rfl) (by rw [howed]; exact hpad)
    (fun hc => howed.trans (hinv.no_pad_first hlive hidle (hcount.symm.trans hc)))
  obtain ⟨q', hpass⟩ := loopPass_stored (hblk ▸ hdue) hskip hat storedChunk_drop_header h1 (by omega)
  have hloop : chunkLoop payload.length (start.setBr p) = .ok () (start.stored q' r0 r1 r2 payload) :=
    chunkLoop_one_pass h1 (by simp [State.wantsMore, hcmd]; omega) hpass (by simp [State.wantsMore, State.stored, hcmd])
  have hview : (start.win.pushAll start.cfg.windowSize payload).view start.cfg.windowSize payload.length = payload := by
    have hsize := hinv.windowSize_ge
    rw [← hstart]
    exact Window.view_pushAll hinv.window (hmax.trans (le_trans (by decide) hsize))
  have hfinish : finishChunk (start.stored q' r0 r1 r2 payload) = .ok ()
      { start.stored q' r0 r1 r2 payload with
        out := payload
        chunkOffset := advanceChunkOffset s.chunkOffset payload.length
        decodedChunks := countChunk s.decodedChunks
        result := if wantBytes then .bytes payload else .bytesWritten payload.length } := by
    subst hstart
    exact finishChunk_of_view hview
  refine ⟨q', ?_⟩
  rw [runChunk, hrefusal, hstart]
  refine Op.run_of_ok ?_
  rw [chunkBody, Op.andThen_of_ok he8, Op.andThen_of_ok hloop, hfinish]

end

/-- Settles O59: the E8 flag and the pad byte lead to the header, the one pass of the loop pushes the payload, and the view of what was pushed is the payload. -/
theorem storedChunkDecodes : Obligations.StoredChunkDecodes := by
  intro s r0 r1 r2 pad payload hinv hlive hidle hdue hpad h1 hmax i result hi
  rcases hi with ⟨rfl, rfl⟩ | ⟨rfl, rfl⟩
  · obtain ⟨q, hq⟩ := runChunk_stored hinv hlive hidle hdue hpad h1 hmax rfl false
    exact ⟨_, hq, rfl, rfl, rfl, rfl, rfl, rfl, rfl, fun k => by cases k <;> rfl, rfl, rfl, rfl, rfl⟩
  · obtain ⟨q, hq⟩ := runChunk_stored hinv hlive hidle hdue hpad h1 hmax rfl true
    exact ⟨_, hq, rfl, rfl, rfl, rfl, rfl, rfl, rfl, fun k => by cases k <;> rfl, rfl, rfl, rfl, rfl⟩

end Sys2Proof.Machine
end

section
/-! A range update can set any lengths, and a Verbatim block any pair of trees (R93, R96, R160 to R163, R180 to R182, R188, R201, R204): the
bits of a pretree that has a code for every symbol, then one delta symbol for each position. -/

namespace Sys2Proof.Machine

/-! ### The pretree -/

/-- The table built from lengths that tile. -/
def builtTable (lens : List Nat) : Table := ⟨lens, maxLen lens, tableEntries lens, true⟩

theorem Table.build_of_tiles {t : Table} (k : TableKind) (h : Tiles t.lens) : t.build k = .ok (builtTable t.lens) :=
  Table.build_tiles k h.1 h.2

theorem builtTable_build {lens : List Nat} (k : TableKind) (h : Tiles lens) : (builtTable lens).build k = .ok (builtTable lens) :=
  Table.build_of_tiles k h

/-- The pretree's lengths as the field of the stream: twelve 4s, eight 5s (R99). -/
def fullPretreeField : BitVec 80 := 0x44444444444455555555

theorem fullPretree_tiles : Tiles fullPretree := ⟨by decide +kernel, by decide +kernel⟩

theorem fullPretree_fields : fullPretree.flatMap (fieldBits 4) = fieldBits 80 fullPretreeField.toNat := by decide +kernel

theorem pretreeLens_fullPretreeField : pretreeLens fullPretreeField = fullPretree := by decide +kernel

/-- Every symbol of the pretree has a code (R181). -/
theorem fullPretree_used {sym : Nat} (h : sym < 17) : lenAt fullPretree sym ≠ 0 := by
  have hall : ∀ sym < 17, lenAt fullPretree sym ≠ 0 := by decide
  exact hall sym h

section
variable {s : State} {rest : List Bool}

theorem readPretree_full (h : s.br.stream = fullPretree.flatMap (fieldBits 4) ++ rest) :
    ∃ q, readPretree s = .ok () ((s.setBr q).setTable .pre (builtTable fullPretree)) ∧ q.stream = rest := by
  rw [fullPretree_fields] at h
  obtain ⟨q, hq, ha⟩ := readPretreeField_field h
  have hbuild : (((s.setBr q).setLens .pre fullPretree).table .pre).build .pre = .ok (builtTable fullPretree) :=
    Table.build_of_tiles .pre fullPretree_tiles
  refine ⟨q, ?_, by rw [ha.stream, h, fieldBits_drop]⟩
  rw [readPretree, Op.bind_of_ok hq, setPretree_apply, pretreeLens_fullPretreeField, buildTable_of_build hbuild, State.setLens,
    State.setTable_setTable]

/-! ### One delta symbol for each position -/

/-- The registers a range update writes, once the pretree is read: the reader, the array's lengths and the position. -/
def State.updated (s : State) (q : Reader) (lens : List Nat) (pos : Nat) : State :=
  ((s.setBr q).setUpdLens lens).setUpd { s.upd with pos := pos }

theorem State.writeRun_setBr (s : State) (q : Reader) (value run : Nat) :
    (s.setBr q).writeRun value run = s.updated q (fillRun s.updLens s.upd.pos value run) (s.upd.pos + run) := by
  rw [State.writeRun_eq, State.setBr_updLens]
  rfl

theorem State.updated_br (s : State) (q : Reader) (lens : List Nat) (pos : Nat) : (s.updated q lens pos).br = q := by
  simp [State.updated]

theorem State.updated_upd (s : State) (q : Reader) (lens : List Nat) (pos : Nat) : (s.updated q lens pos).upd = { s.upd with pos := pos } := rfl

theorem State.updated_updLens (s : State) (q : Reader) (lens : List Nat) (pos : Nat) : (s.updated q lens pos).updLens = lens := by
  simp [State.updated, State.updLens, State.setUpdLens]

theorem State.updated_pre (s : State) (q : Reader) (lens : List Nat) (pos : Nat) : (s.updated q lens pos).pre = s.pre := by
  unfold State.updated State.setUpdLens State.setBr State.setUpd
  cases s.upd.target <;> rfl

theorem State.updated_updated (s : State) (q q' : Reader) (lens lens' : List Nat) (pos pos' : Nat) :
    (s.updated q lens pos).updated q' lens' pos' = s.updated q' lens' pos' := by
  obtain ⟨cfg, constructed, br, rep, blk, main, len, align, pre, win, chunkOffset, decodedChunks, fault, cmd, out, phase, ⟨target, p, stop⟩, hdr,
    elt, ret, result, host, freeCtr⟩ := s
  cases target <;> rfl

/-- One position is set at the boundary of what is done (R182). -/
theorem fillRun_one (front : List Nat) (x value : Nat) (back : List Nat) :
    fillRun (front ++ x :: back) front.length value 1 = front ++ value :: back := by
  induction front with
  | nil => cases back <;> rfl
  | cons y front ih => exact congrArg (y :: ·) ih

theorem lenAt_boundary (front : List Nat) (x : Nat) (back : List Nat) : lenAt (front ++ x :: back) front.length = x := by
  rw [lenAt, List.getD_append_right _ _ _ _ (Nat.le_refl _), Nat.sub_self]
  rfl

/-- A delta symbol decoded by the full pretree sets its position and moves on (R164, R182). -/
theorem deltaPass {front back : List Nat} {old new : Nat} (hpre : s.pre = builtTable fullPretree) (hpos : s.upd.pos = front.length)
    (hstop : s.upd.pos < s.upd.stop) (hlens : s.updLens = front ++ old :: back) (hold : old ≤ 16) (hnew : new ≤ 16)
    (h : s.br.stream = codeBits fullPretree ((17 + old - new) % 17) ++ rest) :
    ∃ q, ((decodeSymbol .pre).bind pretreeSymbol) s = .ok () (s.updated q (front ++ new :: back) (s.upd.pos + 1)) ∧ q.stream = rest := by
  have hsym : (17 + old - new) % 17 < 17 := Nat.mod_lt _ (by omega)
  have hcode : (codeBits fullPretree ((17 + old - new) % 17)).length = lenAt fullPretree ((17 + old - new) % 17) := fieldBits_length _ _
  have htable : s.table .pre = builtTable fullPretree := hpre
  obtain ⟨q, hq, ha⟩ := decodeSymbol_code (k := .pre) (s := s) (sym := (17 + old - new) % 17)
    (by rw [htable]; exact builtTable_build .pre fullPretree_tiles) (by rw [htable]; rfl) (by rw [htable]; decide +kernel)
    (by rw [htable]; exact fullPretree_used hsym) (by rw [htable, h]; exact List.take_left' hcode)
  rw [htable] at ha
  refine ⟨q, ?_, by rw [ha.stream, h]; exact List.drop_left' hcode⟩
  have hdelta : (s.setBr q).deltaHere ((17 + old - new) % 17) = new := by
    rw [State.deltaHere, State.setBr_updLens, hlens]
    show deltaLength (lenAt _ s.upd.pos) _ = new
    rw [hpos, lenAt_boundary, deltaLength_back hold hnew]
  have hrun : fillRun s.updLens s.upd.pos new 1 = front ++ new :: back := by rw [hlens, hpos, fillRun_one]
  rw [Op.bind_of_ok hq, pretreeSymbol, if_pos (by omega), ptDelta_ok (s := s.setBr q) hstop, hdelta, State.writeRun_setBr, hrun]

theorem updateLoop_pass {t : State} (h : s.upd.pos < s.upd.stop) (hp : ((decodeSymbol .pre).bind pretreeSymbol) s = .ok () t) (n : Nat) :
    updateLoop (n + 1) s = updateLoop n t := by
  rw [updateLoop]
  exact (if_pos h).trans (Op.andThen_of_ok hp)

theorem State.updated_self (s : State) : s.updated s.br s.updLens s.upd.pos = s := by
  obtain ⟨cfg, constructed, br, rep, blk, main, len, align, pre, win, chunkOffset, decodedChunks, fault, cmd, out, phase, ⟨target, p, stop⟩, hdr,
    elt, ret, result, host, freeCtr⟩ := s
  cases target <;> rfl

/-- The delta symbols of two length lists take the one to the other (R181, R182). -/
theorem updateLoop_deltas {old new front back : List Nat} (hlen : new.length = old.length) (hold : ∀ L ∈ old, L ≤ 16)
    (hnew : ∀ L ∈ new, L ≤ 16) (hpre : s.pre = builtTable fullPretree) (hpos : s.upd.pos = front.length)
    (hstop : s.upd.stop = front.length + old.length) (hlens : s.updLens = front ++ (old ++ back))
    (h : s.br.stream = (List.zipWith (fun o n => codeBits fullPretree ((17 + o - n) % 17)) old new).flatten ++ rest) :
    ∃ q, updateLoop old.length s = .ok () (s.updated q (front ++ (new ++ back)) s.upd.stop) ∧ q.stream = rest := by
  induction old generalizing new front s with
  | nil =>
    obtain rfl : new = [] := List.length_eq_zero_iff.1 hlen
    have hend : s.upd.stop = s.upd.pos := by rw [hpos, hstop]; rfl
    refine ⟨s.br, ?_, h⟩
    rw [← hlens, hend, State.updated_self]
    rfl
  | cons o old ih =>
    obtain ⟨n, new, rfl⟩ := List.exists_cons_of_length_eq_add_one hlen
    rw [List.length_cons] at hstop hlen
    rw [List.zipWith_cons_cons, List.flatten_cons, List.append_assoc] at h
    obtain ⟨p, hp, hrest⟩ := deltaPass hpre hpos (by omega) hlens (hold o (by simp)) (hnew n (by simp)) h
    obtain ⟨q, hq, hqrest⟩ := ih (s := s.updated p (front ++ n :: (old ++ back)) (s.upd.pos + 1)) (front := front ++ [n]) (new := new)
      (by simpa using hlen) (fun L hL => hold L (by simp [hL])) (fun L hL => hnew L (by simp [hL]))
      ((s.updated_pre _ _ _).trans hpre) (by simp [State.updated_upd, hpos]) (by simp [State.updated_upd, hstop]; omega)
      (by simp [State.updated_updLens]) (by rw [State.updated_br, hrest])
    refine ⟨q, ?_, hqrest⟩
    rw [State.updated_updated, List.append_assoc] at hq
    rw [List.length_cons, updateLoop_pass (by omega) hp]
    exact hq

/-! ### A whole range update -/

/-- The state after a range update that gave the array the lengths `lens` (R181). -/
def State.rangeUpdated (s : State) (q : Reader) (target : LenArray) (lens : List Nat) (stop : Nat) : State :=
  (((s.setBr q).setTable .pre (builtTable fullPretree)).setUpd ⟨target, stop, stop⟩).setLens (lensKind target) lens

theorem State.rangeUpdated_cfg (s : State) (q : Reader) (target : LenArray) (lens : List Nat) (stop : Nat) :
    (s.rangeUpdated q target lens stop).cfg = s.cfg := by
  cases target <;> rfl

theorem State.rangeUpdated_again (s : State) (q q' : Reader) (target : LenArray) (lens lens' : List Nat) (stop stop' : Nat) :
    (s.rangeUpdated q target lens stop).rangeUpdated q' target lens' stop' = s.rangeUpdated q' target lens' stop' := by
  cases target <;> rfl

/-- A range update takes the part `old` of its array to `new`, whatever both are (R180 to R182). -/
theorem updateRange_reaches {target : LenArray} {start stop : Nat} {front old new back : List Nat}
    (hlens : (s.table (lensKind target)).lens = front ++ (old ++ back)) (hstart : start = front.length)
    (hstop : stop = front.length + old.length) (hlen : new.length = old.length) (hold : ∀ L ∈ old, L ≤ 16) (hnew : ∀ L ∈ new, L ≤ 16)
    (h : s.br.stream = updateBits old new ++ rest) :
    ∃ q, updateRange target start stop s = .ok () (s.rangeUpdated q target (front ++ (new ++ back)) stop) ∧ q.stream = rest := by
  rw [updateBits, List.append_assoc] at h
  obtain ⟨p, hp, hrest⟩ := readPretree_full h
  obtain ⟨q, hq, hqrest⟩ := updateLoop_deltas (s := ((s.setBr p).setTable .pre (builtTable fullPretree)).setUpd ⟨target, start, stop⟩)
    hlen hold hnew rfl hstart hstop (by rw [← hlens]; cases target <;> rfl) hrest
  have hcount : stop - start = old.length := by omega
  refine ⟨q, ?_, hqrest⟩
  rw [updateRange, Op.andThen_of_ok hp, beginUpdate, Op.andThen_of_ok (Op.modify_apply _ _), hcount, hq]
  cases target <;> rfl

/-! ### The trees of a Verbatim block -/

/-- The length table built from lengths that tile or are all zero (R161). -/
def lengthTable (lens : List Nat) : Table := if maxLen lens = 0 then ⟨lens, 0, [], false⟩ else builtTable lens

theorem Table.build_lengthTable {t : Table} (h : Tiles t.lens ∨ maxLen t.lens = 0) : t.build .len = .ok (lengthTable t.lens) := by
  rcases h with h | h
  · rw [lengthTable, if_neg h.1.ne', Table.build_of_tiles .len h]
  · rw [lengthTable, if_pos h, Table.build_eq, if_pos h, if_pos rfl]

/-- The state after `readTables` has set both trees (R188). -/
def State.treesSet (s : State) (q : Reader) (main len : List Nat) : State :=
  ((((s.setBr q).setTable .pre (builtTable fullPretree)).setUpd ⟨.lenLen, 249, 249⟩).setTable .main (builtTable main)).setTable .len
    (lengthTable len)

theorem State.treesSet_of_updates (s : State) (q q' : Reader) (lens main len : List Nat) (stop : Nat) :
    (((s.rangeUpdated q .mainLen lens stop).setTable .main (builtTable main)).rangeUpdated q' .lenLen len 249).setTable .len (lengthTable len) =
      s.treesSet q' main len := by
  unfold State.treesSet State.rangeUpdated
  generalize builtTable main = mainTable, lengthTable len = lenTable
  rfl

/-- What a block body's bits must turn the lengths into for `readTables` to set both trees. -/
structure TreesFit (s : State) (main len : List Nat) : Prop where
  oldMain : s.main.lens.length = nMain s.cfg.positionSlots ∧ ∀ L ∈ s.main.lens, L ≤ 16
  oldLen : s.len.lens.length = 249 ∧ ∀ L ∈ s.len.lens, L ≤ 16
  newMain : main.length = nMain s.cfg.positionSlots ∧ ∀ L ∈ main, L ≤ 16
  newLen : len.length = 249 ∧ ∀ L ∈ len, L ≤ 16
  mainTiles : Tiles main
  lenTiles : Tiles len ∨ maxLen len = 0

/-- The bits of the three range updates (R188). -/
def treesBits (s : State) (main len : List Nat) : List Bool :=
  updateBits (s.main.lens.take 256) (main.take 256) ++ updateBits (s.main.lens.drop 256) (main.drop 256) ++ updateBits s.len.lens len

theorem updateStage_literals_reaches {old new back : List Nat} (hlens : s.main.lens = old ++ back) (hcount : old.length = 256)
    (hlen : new.length = old.length) (hold : ∀ L ∈ old, L ≤ 16) (hnew : ∀ L ∈ new, L ≤ 16) (h : s.br.stream = updateBits old new ++ rest) :
    ∃ q, updateStage .literals s = .ok () (s.rangeUpdated q .mainLen (new ++ back) 256) ∧ q.stream = rest :=
  updateRange_reaches (target := .mainLen) (start := 0) (stop := 256) (front := []) hlens rfl (by rw [hcount]; rfl) hlen hold hnew h

theorem updateStage_matches_reaches {front old new : List Nat} (hlens : s.main.lens = front ++ old) (hfront : front.length = 256)
    (hcount : 256 + old.length = nMain s.cfg.positionSlots) (hlen : new.length = old.length) (hold : ∀ L ∈ old, L ≤ 16)
    (hnew : ∀ L ∈ new, L ≤ 16) (h : s.br.stream = updateBits old new ++ rest) :
    ∃ q, updateStage .matches s = .ok () (s.rangeUpdated q .mainLen (front ++ new) (nMain s.cfg.positionSlots)) ∧ q.stream = rest := by
  rw [← List.append_nil new]
  exact updateRange_reaches (target := .mainLen) (start := 256) (stop := nMain s.cfg.positionSlots) (back := [])
    (by rw [List.append_nil]; exact hlens) hfront.symm (by rw [hfront, hcount]) hlen hold hnew h

theorem updateStage_lengths_reaches {old new : List Nat} (hlens : s.len.lens = old) (hcount : old.length = 249)
    (hlen : new.length = old.length) (hold : ∀ L ∈ old, L ≤ 16) (hnew : ∀ L ∈ new, L ≤ 16) (h : s.br.stream = updateBits old new ++ rest) :
    ∃ q, updateStage .lengths s = .ok () (s.rangeUpdated q .lenLen new 249) ∧ q.stream = rest := by
  rw [← List.append_nil new]
  exact updateRange_reaches (target := .lenLen) (start := 0) (stop := 249) (front := []) (back := [])
    (by rw [List.append_nil]; exact hlens) rfl (by rw [hcount]; rfl) hlen hold hnew h

/-- `readTables` sets both trees: each update starts from the lengths the one before it left (R188). -/
theorem readTables_reaches {main len : List Nat} (hfit : TreesFit s main len) (h : s.br.stream = treesBits s main len ++ rest) :
    ∃ q, readTables s = .ok () (s.treesSet q main len) ∧ q.stream = rest := by
  obtain ⟨holdMain, hsmallMain⟩ := hfit.oldMain
  obtain ⟨holdLen, hsmallLen⟩ := hfit.oldLen
  obtain ⟨hnewMain, hmain16⟩ := hfit.newMain
  obtain ⟨hnewLen, hlen16⟩ := hfit.newLen
  have hN : 256 ≤ nMain s.cfg.positionSlots := Nat.le_add_right _ _
  have htake : ∀ lens : List Nat, lens.length = nMain s.cfg.positionSlots → (lens.take 256).length = 256 := fun lens hl => by
    rw [List.length_take, hl, Nat.min_eq_left hN]
  have hdrop : ∀ lens : List Nat, lens.length = nMain s.cfg.positionSlots → (lens.drop 256).length = nMain s.cfg.positionSlots - 256 :=
    fun lens hl => by rw [List.length_drop, hl]
  rw [treesBits, List.append_assoc, List.append_assoc] at h
  obtain ⟨q1, hq1, hrest1⟩ := updateStage_literals_reaches (List.take_append_drop 256 s.main.lens).symm (htake _ holdMain)
    ((htake _ hnewMain).trans (htake _ holdMain).symm) (fun L hL => hsmallMain L (List.mem_of_mem_take hL))
    (fun L hL => hmain16 L (List.mem_of_mem_take hL)) h
  obtain ⟨q2, hq2, hrest2⟩ := updateStage_matches_reaches
    (s := s.rangeUpdated q1 .mainLen (main.take 256 ++ s.main.lens.drop 256) 256) rfl (htake _ hnewMain)
    (by rw [hdrop _ holdMain]; exact Nat.add_sub_cancel' hN) ((hdrop _ hnewMain).trans (hdrop _ holdMain).symm)
    (fun L hL => hsmallMain L (List.mem_of_mem_drop hL)) (fun L hL => hmain16 L (List.mem_of_mem_drop hL)) hrest1
  rw [List.take_append_drop, State.rangeUpdated_again, State.rangeUpdated_cfg] at hq2
  have hmain : ((s.rangeUpdated q2 .mainLen main (nMain s.cfg.positionSlots)).table .main).build .main = .ok (builtTable main) :=
    Table.build_of_tiles .main hfit.mainTiles
  obtain ⟨q3, hq3, hrest3⟩ := updateStage_lengths_reaches
    (s := (s.rangeUpdated q2 .mainLen main (nMain s.cfg.positionSlots)).setTable .main (builtTable main)) rfl holdLen
    (hnewLen.trans holdLen.symm) hsmallLen hlen16 hrest2
  have hlength : ((((s.rangeUpdated q2 .mainLen main (nMain s.cfg.positionSlots)).setTable .main (builtTable main)).rangeUpdated q3 .lenLen
      len 249).table .len).build .len = .ok (lengthTable len) := Table.build_lengthTable hfit.lenTiles
  refine ⟨q3, ?_, hrest3⟩
  rw [readTables, Op.andThen_of_ok hq1, Op.andThen_of_ok hq2, Op.andThen_of_ok (buildTable_of_build hmain), Op.andThen_of_ok hq3,
    buildTable_of_build hlength, State.treesSet_of_updates]

theorem blockHeader_one (size : BitVec 24) (s : State) : blockHeader 1 size s = .ok () (s.setHdr ⟨.verbatim, size.toNat⟩) := rfl

/-- A Verbatim block with a body that sets both trees becomes the current one (R201, R204). -/
theorem readBlock_verbatim {main len : List Nat} {size : BitVec 24} (hfit : TreesFit s main len) (hsize : size ≠ 0)
    (h : s.br.stream = fieldBits 27 (headerWord 1 size) ++ (treesBits s main len ++ rest)) :
    ∃ q, readBlock s = .ok () (((s.setHdr ⟨.verbatim, size.toNat⟩).treesSet q main len).setBlk
      { s.blk with kind := .verbatim, size := size.toNat, remaining := size.toNat }) ∧ q.stream = rest := by
  obtain ⟨p, hp, ha⟩ := readHeader_field h (by omega)
  have hbody : p.stream = treesBits s main len ++ rest := by rw [ha.stream, h, fieldBits_drop]
  obtain ⟨q, hq, hrest⟩ := readTables_reaches (s := (s.setBr p).setHdr ⟨.verbatim, size.toNat⟩) (main := main) (len := len) { hfit with } hbody
  have hheader : (readHeader.bind fun h => blockHeader h.1 h.2) s = .ok () ((s.setBr p).setHdr ⟨.verbatim, size.toNat⟩) := by
    rw [Op.bind_of_ok hp, blockHeader_one]
  have hread : readBody ((s.setBr p).setHdr ⟨.verbatim, size.toNat⟩) = _ := hq
  refine ⟨q, ?_, hrest⟩
  rw [readBlock, Op.andThen_of_ok hheader, Op.andThen_of_ok hread]
  exact if_neg fun h0 => hsize (BitVec.eq_of_toNat_eq h0)

end

theorem lengthTable_present (lens : List Nat) : (lengthTable lens).present = decide (maxLen lens ≠ 0) := by
  unfold lengthTable
  by_cases h : maxLen lens = 0
  · rw [if_pos h, h]; rfl
  · rw [if_neg h, decide_eq_true h]; rfl

theorem lengthTable_lens (lens : List Nat) : (lengthTable lens).lens = lens := by unfold lengthTable; split <;> rfl

/-- Settles O36: the three range updates reach the wanted lengths, which build; the header before them is read, and the block committed. -/
theorem verbatimBlockSetsAnyTrees : Obligations.VerbatimBlockSetsAnyTrees := by
  intro s main len rest holdMain holdLen hsmallMain hsmallLen hnewMain hnewLen hmain16 hlen16 hmain hlen
  have hfit : TreesFit s main len :=
    ⟨⟨holdMain, hsmallMain⟩, ⟨holdLen, hsmallLen⟩, ⟨hnewMain, hmain16⟩, ⟨hnewLen, hlen16⟩, hmain, hlen⟩
  have hcanonical : Canonical main (builtTable main).tab := canonical_tableEntries hmain
  refine ⟨fun h => ?_, fun size hsize h => ?_⟩
  · obtain ⟨q, hq, hrest⟩ := readTables_reaches hfit h
    refine ⟨_, Op.run_of_ok hq, hrest, rfl, lengthTable_lens len, rfl, rfl, hcanonical, lengthTable_present len, fun hused => ?_⟩
    have htable : lengthTable len = builtTable len := if_neg hused
    have htiles : Tiles len := hlen.resolve_right hused
    refine ⟨congrArg Table.maxLength htable, ?_⟩
    show Canonical len (lengthTable len).tab
    rw [htable]
    exact canonical_tableEntries htiles
  · obtain ⟨q, hq, hrest⟩ := readBlock_verbatim hfit hsize h
    exact ⟨_, Op.run_of_ok hq, hrest, rfl, lengthTable_lens len, hcanonical, rfl⟩

end Sys2Proof.Machine
end

section
/-! Reads in a row, peeks, and input bytes copied to the window (R132, R133, R138, R244). -/

namespace Sys2Proof.Machine

section
variable {s t : State}

/-- An instruction that returns a value and has completed is its operation, which has answered. -/
theorem Op.runRet_completes {α : Type} {m : Op α} {f : α → Returned} (h : m.runRet f s = .next t) (hfree : t.freeCtr = s.freeCtr) :
    ∃ a u, m s = .ok a u ∧ t = u.setRet (f a) := by
  rcases Op.run_next h with hok | ⟨k, -, rfl⟩
  · obtain ⟨a, u, ha, hret⟩ := Op.bind_ok_iff.1 hok
    cases hret
    exact ⟨a, u, ha, rfl⟩
  · exact absurd hfree (Nat.succ_ne_self s.freeCtr)

/-! ### Reads in a row (R132) -/

/-- Bits taken before, here the number `c`, stand in front of the bits read now (R132). -/
theorem Reader.readBitsFrom_acc (c : Nat) : ∀ {n acc v : Nat} {r q : Reader}, Reader.readBitsFrom n acc r = .ok (v, q) →
    Reader.readBitsFrom n (c + acc) r = .ok (c * 2 ^ n + v, q)
  | 0, acc, v, r, q, h => by cases h; rw [Reader.readBitsFrom, Nat.pow_zero, Nat.mul_one]
  | n + 1, acc, v, r, q, h => by
    rw [Reader.readBitsFrom] at h ⊢
    cases hbit : r.readBit with
    | error k => rw [hbit] at h; cases h
    | ok p =>
      rw [hbit] at h
      have hrest := Reader.readBitsFrom_acc (2 * c) h
      have hacc : 2 * (c + acc) + p.1.toNat = 2 * c + (2 * acc + p.1.toNat) := by omega
      have hplace : c * 2 ^ (n + 1) = 2 * c * 2 ^ n := by ring
      dsimp only
      rw [hacc, hrest, hplace]

/-- Two reads in a row are one read of both widths (R132 (a)). -/
theorem Reader.readBits_add {a b x y : Nat} {r p q : Reader} (ha : r.readBits a = .ok (x, p)) (hb : p.readBits b = .ok (y, q)) :
    r.readBits (a + b) = .ok (x * 2 ^ b + y, q) := by
  rw [Reader.readBits] at ha
  rw [Reader.readBits, Reader.readBitsFrom_add, ha]
  exact Reader.readBitsFrom_acc x hb

/-- A `readBits` that completes is the reader's read. -/
theorem readBits_completes {n : Nat} (hn : n ≤ 32) (h : Completes (.readBits n) s t) :
    ∃ x q, s.br.readBits n = .ok (x, q) ∧ t = (s.setBr q).setRet (.num x) := by
  obtain ⟨hnext, hfree⟩ := h
  rw [exec_readBits hn] at hnext
  obtain ⟨x, u, hx, rfl⟩ := Op.runRet_completes hnext hfree
  obtain ⟨q, hq, rfl⟩ := onReader_ok hx
  exact ⟨x, q, hq, rfl⟩

/-! ### Peeks (R133) -/

theorem exec_peekBits {n : Nat} (h : n ≤ 32) (s : State) : exec (.peekBits n) s = (peekBits n).runRet .num s := if_pos h

/-- Where the bits exist a peek of any width sees them (R133 (a)). -/
theorem peekBits_of_le {n : Nat} (h : n ≤ s.br.stream.length) : peekBits n s = .ok (bitsValue (s.br.stream.take n)) s := by
  obtain ⟨q, hq, -⟩ := Reader.readBits_ok h
  exact onReader_of_ok (r := s.br) (by rw [Reader.peekBits_of_readBits hq]; rfl)

/-- A peek of more than 16 bits past the end faults (R133 (c)). -/
theorem peekBits_of_lt {n : Nat} (hn : 16 < n) (h : s.br.stream.length < n) : peekBits n s = .raise (.outOfBounds .peek) :=
  onReader_of_error (by rw [Reader.peekBits_long_error hn (Reader.readBits_error h)]; rfl)

/-! ### Input bytes copied to the window (R138, R244) -/

theorem copyFromBitstream_raise {n : Nat} (h : s.br.len < s.br.bytePos + n) : copyFromBitstream n s = .raise (.outOfBounds .bytesRead) :=
  Op.bind_of_raise (readBytes_raise h)

/-- The history after the pushes of `f 0, ..., f (n - 1)` (R240, R247). -/
theorem Window.history_pushAll_range {w : Window} {size k : Nat} (n : Nat) (f : Nat → Byte) (hw : w.Wf size) (h1 : 1 ≤ k) (hk : k ≤ size) :
    (w.pushAll size ((List.range n).map f)).history size k = if k ≤ n then f (n - k) else w.history size (k - n) := by
  rw [Window.history_pushAll hw h1 hk, List.length_map, List.length_range]
  refine ite_congr rfl (fun hle => ?_) fun _ => rfl
  have hlt : n - k < ((List.range n).map f).length := by rw [List.length_map, List.length_range]; omega
  rw [List.getD_eq_getElem _ _ hlt, List.getElem_map, List.getElem_range]

end

/-- Settles O18: both reads answer, and the bits of the first stand in front of those of the second. -/
theorem readBitsSplits : Obligations.ReadBitsSplits := by
  intro a b s t u hab hread hagain
  obtain ⟨x, p, hp, rfl⟩ := readBits_completes (by omega) hread
  obtain ⟨y, q, hq, rfl⟩ := readBits_completes (by omega) hagain
  have hboth : readBits (a + b) s = .ok (x * 2 ^ b + y) (s.setBr q) := onReader_of_ok (Reader.readBits_add hp hq)
  have hexec : exec (.readBits (a + b)) s = .next ((s.setBr q).setRet (.num (x * 2 ^ b + y))) :=
    (exec_readBits hab s).trans (Op.runRet_of_ok hboth)
  exact ⟨x, y, rfl, rfl, Reader.readBits_lt hq, hexec⟩

/-- Settles O19: inside its domain the instruction is the reader's peek, which sees the bits, sees zeros or faults. -/
theorem peekBitsChangesNothing : Obligations.PeekBitsChangesNothing :=
  fun n s => ⟨fun h32 hn => (exec_peekBits h32 s).trans (Op.runRet_of_ok (peekBits_of_le hn)),
    fun h16 => (exec_peekBits (h16.trans (by decide)) s).trans (Op.runRet_of_ok (peekBits_short h16)),
    fun h16 h32 hn => (exec_peekBits h32 s).trans (Op.runRet_of_raise (peekBits_of_lt h16 hn)), fun h32 => if_neg (Nat.not_le.2 h32)⟩

/-- Settles O52: both instructions are one operation, which pushes the bytes from the cursor on, or faults before it reads any. -/
theorem copyFromBitstreamPushesBytes : Obligations.CopyFromBitstreamPushesBytes := by
  intro s n i hw hi
  have hexec : exec i s = (copyFromBitstream n).run s := by rcases hi with rfl | rfl <;> rfl
  refine ⟨fun h => ⟨_, hexec.trans (Op.run_of_ok (copyFromBitstream_ok h)), ?_, fun a ha => ?_, fun k h1 hk => ?_⟩,
    fun h => hexec.trans (Op.run_of_raise (copyFromBitstream_raise h))⟩
  · rw [Window.pushAll_pos hw.position, List.length_map, List.length_range]
  · exact Window.memRead_pushAll hw.position (by rwa [List.length_map, List.length_range])
  · exact Window.history_pushAll_range n (fun j => s.br.byteAt (s.br.bytePos + j)) hw h1 hk

end Sys2Proof.Machine
end

section
/-! The range update as an instruction: from any lengths to any others (R180 to R182). -/

namespace Sys2Proof.Machine

theorem exec_updateRange {target : LenArray} {start stop : Nat} {s : State} (hle : start ≤ stop)
    (hstop : stop ≤ (s.table (lensKind target)).lens.length) :
    exec (.updateRange target start stop) s = (updateRange target start stop).run s := if_pos ⟨hle, hstop⟩

theorem State.rangeUpdated_br (s : State) (q : Reader) (target : LenArray) (lens : List Nat) (stop : Nat) :
    (s.rangeUpdated q target lens stop).br = q := by
  cases target <;> rfl

theorem State.rangeUpdated_lens (s : State) (q : Reader) (target : LenArray) (lens : List Nat) (stop : Nat) :
    ((s.rangeUpdated q target lens stop).table (lensKind target)).lens = lens := State.setLens_table_lens _ _ _

/-- A list is what stands before a range, the range, and what stands behind it. -/
theorem take_range_drop {lens : List Nat} {start stop : Nat} (hle : start ≤ stop) :
    lens = lens.take start ++ ((lens.drop start).take (stop - start) ++ lens.drop stop) := by
  have hback : lens.drop stop = (lens.drop start).drop (stop - start) := by rw [List.drop_drop, Nat.add_sub_cancel' hle]
  rw [hback, List.take_append_drop, List.take_append_drop]

/-- Settles O35: the array is cut at the range's two ends, and the delta symbols take the part between them to the new lengths. -/
theorem rangeUpdateReachesEveryLengths : Obligations.RangeUpdateReachesEveryLengths := by
  intro s target start stop new rest hle hstop hold hlen hnew hstream
  have hfront : ((s.table (lensKind target)).lens.take start).length = start := List.length_take_of_le (hle.trans hstop)
  have hpart : (((s.table (lensKind target)).lens.drop start).take (stop - start)).length = stop - start :=
    List.length_take_of_le (by rw [List.length_drop]; omega)
  obtain ⟨q, hq, hrest⟩ := updateRange_reaches (take_range_drop hle) hfront.symm (by rw [hfront, hpart, Nat.add_sub_cancel' hle])
    (hlen.trans hpart.symm) (fun L hL => hold L (List.mem_of_mem_drop (List.mem_of_mem_take hL))) hnew hstream
  refine ⟨_, (exec_updateRange hle hstop).trans (Op.run_of_ok hq), ?_, ?_⟩
  · rw [State.rangeUpdated_br, hrest]
  · rw [State.rangeUpdated_lens, List.append_assoc]

end Sys2Proof.Machine
end

section
/-! Built tables (R160 to R167): exactly which lengths build, what decoding consumes, and the canonical order of the codes. -/

namespace Sys2Proof.Machine

/-! ### Which lengths build (R160 to R162) -/

theorem State.setLens_self (s : State) (k : TableKind) : s.setLens k (s.table k).lens = s := by
  cases k <;> rfl

/-- Settles O24: `buildTable` is the build of a table whose lengths are those it already has. -/
theorem buildTableExactlyWhenTiled : Obligations.BuildTableExactlyWhenTiled := fun k s =>
  buildsTable_of_setLens (m := buildTable k) rfl (by rw [State.setLens_self])

/-! ### What decoding consumes (R164, R165) -/

/-- Settles O27: a filled table has the index peeked, and its symbol's length is what is read; an absent table faults before. -/
theorem decodeSymbolConsumesTrueLength : Obligations.DecodeSymbolConsumesTrueLength := by
  refine fun k s => ⟨fun hp hf => ?_, fun hp => Op.runRet_of_raise (decodeSymbol_absent hp)⟩
  obtain ⟨sym, hmem, -, ⟨hn, q, hq, ha⟩ | ⟨hn, hraise⟩⟩ := decodeSymbol_cases hp hf
  · exact ⟨sym, hmem, fun _ => ⟨q, ha, Op.runRet_of_ok hq⟩, fun hlt => absurd hn hlt.not_ge⟩
  · exact ⟨sym, hmem, fun hge => absurd hn hge.not_gt, fun _ => Op.runRet_of_raise hraise⟩

/-! ### The order of the codes (R163) -/

section
variable {lens : List Nat} {x y : Nat}

theorem codedBefore_irrefl (lens : List Nat) (x : Nat) : ¬codedBefore lens x x = true := by
  rw [codedBefore_iff]
  omega

theorem codedBefore_trans {z : Nat} (h1 : codedBefore lens x y = true) (h2 : codedBefore lens y z = true) : codedBefore lens x z = true := by
  rw [codedBefore_iff] at *
  omega

/-- Of two used symbols one stands before the other. -/
theorem codedBefore_total (hx : lenAt lens x ≠ 0) (hy : lenAt lens y ≠ 0) (hne : x ≠ y) :
    codedBefore lens x y = true ∨ codedBefore lens y x = true := by
  simp only [codedBefore_iff]
  omega

/-- The entries of the symbols of a set. -/
def entriesOf (lens : List Nat) (p : Nat → Prop) [DecidablePred p] : Nat :=
  ((List.range lens.length).map fun z => if p z then 2 ^ (maxLen lens - lenAt lens z) else 0).sum

theorem entriesOf_congr {p r : Nat → Prop} [DecidablePred p] [DecidablePred r] (h : ∀ z, p z ↔ r z) : entriesOf lens p = entriesOf lens r := by
  simp only [entriesOf, h]

theorem entriesOf_none {p : Nat → Prop} [DecidablePred p] (h : ∀ z, ¬p z) : entriesOf lens p = 0 := by
  simp [entriesOf, h]

/-- One more symbol takes its own entries. -/
theorem entriesOf_insert {p : Nat → Prop} [DecidablePred p] (hx : x < lens.length) (hp : ¬p x) :
    entriesOf lens (fun z => p z ∨ z = x) = entriesOf lens p + 2 ^ (maxLen lens - lenAt lens x) := by
  have hone : ((List.range lens.length).map fun z => if z = x then 2 ^ (maxLen lens - lenAt lens z) else 0).sum =
      2 ^ (maxLen lens - lenAt lens x) := by
    show ∑ z ∈ Finset.range lens.length, (if z = x then 2 ^ (maxLen lens - lenAt lens z) else 0) = _
    rw [Finset.sum_ite_eq', if_pos (Finset.mem_range.2 hx)]
  rw [entriesOf, entriesOf, ← hone, ← sum_map_add]
  congr 1
  refine List.map_congr_left fun z _ => ?_
  by_cases hz : z = x
  · subst hz
    simp [hp]
  · simp [hz]

theorem codeStart_eq_entriesOf (lens : List Nat) (x : Nat) : codeStart lens x = entriesOf lens fun z => codedBefore lens z x = true := rfl

/-- The table's entries are those of the used symbols (R162). -/
theorem kraft_eq_entriesOf (lens : List Nat) : kraft (maxLen lens) lens = entriesOf lens fun z => lenAt lens z ≠ 0 := by
  rw [← allSpans_fillOrder, allSpans, spans_fillOrder, entriesOf]
  simp [lenAt_le_maxLen]

/-- Where a symbol's span ends. -/
theorem codeStart_add_span (hx : lenAt lens x ≠ 0) :
    codeStart lens x + 2 ^ (maxLen lens - lenAt lens x) = entriesOf lens fun z => codedBefore lens z x = true ∨ z = x :=
  (entriesOf_insert (lt_length_of_lenAt hx) (codedBefore_irrefl lens x)).symm

theorem codeStart_first (h : ∀ z, codedBefore lens z x = false) : codeStart lens x = 0 :=
  entriesOf_none fun z => by rw [h z]; exact Bool.false_ne_true

/-- The next symbol's span begins where a symbol's span ends. -/
theorem codeStart_next (hx : lenAt lens x ≠ 0) (hxy : codedBefore lens x y = true)
    (hnext : ∀ z, ¬(codedBefore lens x z = true ∧ lenAt lens z ≠ 0 ∧ codedBefore lens z y = true)) :
    codeStart lens y = codeStart lens x + 2 ^ (maxLen lens - lenAt lens x) := by
  rw [codeStart_add_span hx, codeStart_eq_entriesOf]
  refine entriesOf_congr fun z => ⟨fun hz => ?_, ?_⟩
  · have hused : lenAt lens z ≠ 0 := (codedBefore_iff.1 hz).1
    by_cases hzx : z = x
    · exact .inr hzx
    · exact .inl ((codedBefore_total hused hx hzx).resolve_right fun hbetween => hnext z ⟨hbetween, hused, hz⟩)
  · rintro (hz | rfl)
    · exact codedBefore_trans hz hxy
    · exact hxy

/-- The last symbol's span ends where the used symbols' entries do. -/
theorem codeStart_last (hx : lenAt lens x ≠ 0) (hlast : ∀ z, lenAt lens z ≠ 0 → z ≠ x → codedBefore lens z x = true) :
    codeStart lens x + 2 ^ (maxLen lens - lenAt lens x) = kraft (maxLen lens) lens := by
  rw [codeStart_add_span hx, kraft_eq_entriesOf]
  refine entriesOf_congr fun z => ⟨?_, fun hz => ?_⟩
  · rintro (hz | rfl)
    · exact (codedBefore_iff.1 hz).1
    · exact hx
  · by_cases hzx : z = x
    · exact .inr hzx
    · exact .inl (hlast z hz hzx)

theorem codeOf_first (h : ∀ z, codedBefore lens z x = false) : codeOf lens x = 0 := by
  rw [codeOf, codeStart_first h, Nat.zero_div]

/-- The next code is the code plus one, lengthened (R163). -/
theorem codeOf_next (hx : lenAt lens x ≠ 0) (hxy : codedBefore lens x y = true)
    (hnext : ∀ z, ¬(codedBefore lens x z = true ∧ lenAt lens z ≠ 0 ∧ codedBefore lens z y = true)) :
    codeOf lens y = (codeOf lens x + 1) * 2 ^ (lenAt lens y - lenAt lens x) := by
  have hle : lenAt lens x ≤ lenAt lens y := by
    rw [codedBefore_iff] at hxy
    omega
  have hmax := lenAt_le_maxLen (lens := lens) (i := y)
  have hspan : 2 ^ (maxLen lens - lenAt lens x) = 2 ^ (lenAt lens y - lenAt lens x) * 2 ^ (maxLen lens - lenAt lens y) := by
    rw [← Nat.pow_add]
    congr 1
    omega
  refine Nat.eq_of_mul_eq_mul_right (Nat.two_pow_pos (maxLen lens - lenAt lens y)) ?_
  rw [codeOf_mul, codeStart_next hx hxy hnext, ← codeOf_mul lens x, hspan]
  ring

/-- The last code of lengths that tile is all ones (R163). -/
theorem codeOf_last (htiles : Tiles lens) (hx : lenAt lens x ≠ 0)
    (hlast : ∀ z, lenAt lens z ≠ 0 → z ≠ x → codedBefore lens z x = true) : codeOf lens x + 1 = 2 ^ lenAt lens x := by
  refine Nat.eq_of_mul_eq_mul_right (Nat.two_pow_pos (maxLen lens - lenAt lens x)) ?_
  rw [← Nat.pow_add, Nat.add_sub_cancel' lenAt_le_maxLen, ← htiles.2, ← codeStart_last hx hlast, ← codeOf_mul]
  ring

end

/-- Settles O25: the spans of the used symbols follow one another without a gap, from the table's first entry to its last. -/
theorem canonicalCodes : Obligations.CanonicalCodes := by
  rintro lens k t u rfl htiles hbuild
  rw [Table.build_of_tiles k htiles] at hbuild
  cases hbuild
  exact ⟨fun x hx => ⟨codeStart_dvd t.lens x, fun q hq => tableEntries_span hx hq⟩, fun x _ => codeOf_first,
    fun x y hx _ => codeOf_next hx, fun x => codeOf_last htiles⟩

end Sys2Proof.Machine
end

section
/-! A match read and taken (R207 to R219, R241, R242, R268, R269, R312): what its length and its offset read is its element, and where taking
the element faults. -/

namespace Sys2Proof.Machine

section
variable {s t u v : State} {slot n : Nat} {lh : BitVec 3} {off : Word32}

/-! ### What the reads leave alone -/

theorem LengthReads.eq_setBr (h : LengthReads lh s n u) : ∃ r, u = s.setBr r := by
  rcases h with ⟨-, -, rfl⟩ | ⟨-, sym, hd, -⟩
  · exact ⟨u.br, rfl⟩
  · obtain ⟨-, -, -, q, rfl, -⟩ := decodeSymbol_ok hd
    exact ⟨q, rfl⟩

theorem OffsetReads.eq_setBr_setRep (h : OffsetReads slot s off u) : ∃ r c, u = (s.setBr r).setRep c := by
  rcases h with ⟨-, -, rfl⟩ | ⟨-, -, rfl⟩ | ⟨-, -, rfl⟩ | ⟨-, -, raw, t, hraw, -, rfl⟩ | ⟨-, -, raw, t, a, t', hraw, hsym, -, rfl⟩
  · exact ⟨u.br, u.rep, rfl⟩
  · exact ⟨s.br, _, rfl⟩
  · exact ⟨s.br, _, rfl⟩
  · obtain ⟨-, -, q, rfl, -⟩ := readBits_ok hraw
    exact ⟨q, _, rfl⟩
  · obtain ⟨-, -, q, rfl, -⟩ := readBits_ok hraw
    obtain ⟨-, -, -, p, rfl, -⟩ := decodeSymbol_ok hsym
    exact ⟨p, _, rfl⟩

/-- What an offset reads does not look at the match's own locals. -/
theorem OffsetReads.setElt (h : OffsetReads slot s off u) (e : MatchLocals) : OffsetReads slot (s.setElt e) off (u.setElt e) := by
  rcases h with ⟨h0, hoff, rfl⟩ | ⟨h1, hoff, rfl⟩ | ⟨h2, hoff, rfl⟩ | ⟨h3, hk, raw, t, hraw, hoff, rfl⟩ |
    ⟨h3, hk, raw, t, a, t', hraw, hsym, hoff, rfl⟩
  · exact .inl ⟨h0, hoff, rfl⟩
  · exact .inr (.inl ⟨h1, hoff, rfl⟩)
  · exact .inr (.inr (.inl ⟨h2, hoff, rfl⟩))
  · obtain ⟨-, -, q, rfl, -⟩ := readBits_ok hraw
    have hraw' := readBits_congr (s := s) (s' := s.setElt e) rfl hraw
    exact .inr (.inr (.inr (.inl ⟨h3, hk, raw, _, hraw', hoff, rfl⟩)))
  · obtain ⟨-, -, q, rfl, -⟩ := readBits_ok hraw
    obtain ⟨-, -, -, p, rfl, -⟩ := decodeSymbol_ok hsym
    have hraw' := readBits_congr (s := s) (s' := s.setElt e) rfl hraw
    have hsym' := decodeSymbol_congr (s := s.setBr q) (s' := (s.setElt e).setBr q) rfl rfl hsym
    exact .inr (.inr (.inr (.inr ⟨h3, hk, raw, _, a, _, hraw', hsym', hoff, rfl⟩)))

/-! ### The length and the offset -/

theorem lengthHeader_of_reads (h : LengthReads lh s n u) : lengthHeader lh.toNat s = .ok () (u.setElt { u.elt with length := n }) := by
  rcases h with ⟨hlt, rfl, rfl⟩ | ⟨h7, sym, hd, rfl⟩
  · exact lengthHeader_short hlt.ne
  · rw [h7]
    exact lengthHeader_long hd

/-- The length a header and the stream give is returned and kept (R210). -/
theorem matchLength_of_reads (h : LengthReads lh s n u) : matchLength lh.toNat s = .ok n (u.setElt { u.elt with length := n }) :=
  Op.andThen_of_ok (lengthHeader_of_reads h)

theorem readRawOffsetBits_of_read {raw : Nat} (hbits : s.rawOffsetBits s.elt.slot = n) (h : readBits n s = .ok raw t) :
    readRawOffsetBits s = .ok () (t.setElt { t.elt with v := raw }) := by
  rw [readRawOffsetBits, hbits, Op.bind_of_ok h]
  rfl

/-- A coded slot off the aligned path: its raw bits complete the offset (R214, R216, R217). -/
theorem matchOffsetCoded_of_read {raw : Nat} (hk : ¬(s.blk.kind = .aligned ∧ 3 ≤ footerBits slot))
    (h : readBits (footerBits slot) s = .ok raw t) :
    matchOffsetCoded slot s = .ok () ((t.setElt { s.elt with slot := slot, v := raw, offset := verbatimOffset slot raw }).setRep
      ⟨verbatimOffset slot raw, s.rep.r0, s.rep.r1⟩) := by
  obtain ⟨-, -, q, rfl, -⟩ := readBits_ok h
  have hbits := readBits_congr (s := s) (s' := s.setElt { s.elt with slot := slot }) rfl h
  have hread := readRawOffsetBits_of_read (State.rawOffsetBits_verbatim hk) hbits
  have hfooter := (footerField_verbatim hk hread rfl rfl).trans (verbatimOffsetDone_apply _)
  rw [matchOffsetCoded, Op.andThen_of_ok (setMatchSlot_apply slot s), Op.andThen_of_ok hfooter]
  exact if_neg (mt State.alignedPath_iff.1 hk)

/-- A coded slot on the aligned path: its raw bits, then an aligned symbol, complete the offset (R215, R217). -/
theorem matchOffsetCoded_of_reads {raw a : Nat} (hk : s.blk.kind = .aligned ∧ 3 ≤ footerBits slot)
    (h : readBits (footerBits slot - 3) s = .ok raw t) (ha : decodeSymbol .align t = .ok a u) :
    matchOffsetCoded slot s = .ok () ((u.setElt { s.elt with slot := slot, v := raw, offset := alignedOffset slot raw a }).setRep
      ⟨alignedOffset slot raw a, s.rep.r0, s.rep.r1⟩) := by
  obtain ⟨-, -, q, rfl, -⟩ := readBits_ok h
  obtain ⟨-, -, -, p, rfl, -⟩ := decodeSymbol_ok ha
  have hbits := readBits_congr (s := s) (s' := s.setElt { s.elt with slot := slot }) rfl h
  have hread := readRawOffsetBits_of_read (State.rawOffsetBits_aligned hk) hbits
  have hsym := decodeSymbol_congr (s := s.setBr q) (s' := (s.setBr q).setElt { s.elt with slot := slot, v := raw }) rfl rfl ha
  rw [matchOffsetCoded, Op.andThen_of_ok (setMatchSlot_apply slot s), Op.andThen_of_ok (footerField_aligned hk hread rfl rfl)]
  exact (if_pos (State.alignedPath_iff.2 hk)).trans (Op.bind_of_ok hsym)

theorem matchOffset_of_three_le (h : 3 ≤ slot) : matchOffset slot = matchOffsetCoded slot := by
  obtain ⟨k, rfl⟩ := Nat.exists_eq_add_of_le' h
  rfl

/-- The offset a slot and the stream give is kept, the length with it (R211 to R217). -/
theorem matchOffset_of_reads (h : OffsetReads slot s off u) :
    ∃ e, matchOffset slot s = .ok () (u.setElt e) ∧ e.length = s.elt.length ∧ e.offset = off := by
  rcases h with ⟨rfl, rfl, rfl⟩ | ⟨rfl, rfl, rfl⟩ | ⟨rfl, rfl, rfl⟩ | ⟨h3, hk, raw, t, hraw, rfl, rfl⟩ |
    ⟨h3, hk, raw, t, a, t', hraw, hsym, rfl, rfl⟩
  · exact ⟨_, matchOffset0_eq u, rfl, rfl⟩
  · exact ⟨_, matchOffset1_eq s, rfl, rfl⟩
  · exact ⟨_, matchOffset2_eq s, rfl, rfl⟩
  · rw [matchOffset_of_three_le h3]
    exact ⟨_, matchOffsetCoded_of_read hk hraw, rfl, rfl⟩
  · rw [matchOffset_of_three_le h3, Nat.mul_comm 8]
    exact ⟨_, matchOffsetCoded_of_reads hk hraw hsym, rfl, rfl⟩

/-! ### The element -/

/-- A match's element is what its length and then its offset give (R209, R219). -/
theorem matchElement_of_reads (hslot : slot < s.cfg.positionSlots) (h98 : slot < 98) (hlen : LengthReads lh s n u)
    (hoff : OffsetReads slot u off v) :
    ∃ e, matchElement slot lh.toNat s = .ok (.matched off n) (v.setElt e) ∧ e.length = n ∧ e.offset = off := by
  obtain ⟨e, he, helen, heoff⟩ := matchOffset_of_reads (hoff.setElt { u.elt with length := n })
  refine ⟨e, ?_, helen, heoff⟩
  rw [matchElement, if_pos ⟨hslot, h98⟩, Op.bind_of_ok (matchLength_of_reads hlen), Op.andThen_of_ok he]
  show Res.ok (Element.matched e.offset n) _ = _
  rw [heoff]
  rfl

/-- A match whose length needs the absent length tree faults before its offset (R165, R210). -/
theorem matchElement_absent (hslot : slot < s.cfg.positionSlots) (h98 : slot < 98) (h : s.len.present = false) :
    matchElement slot 7 s = .raise (.corruptTable .absentLengthTree) := by
  have hlength : lengthHeader 7 s = .raise (.corruptTable .absentLengthTree) := Op.bind_of_raise (decodeSymbol_absent (k := .len) h)
  exact (if_pos ⟨hslot, h98⟩).trans (Op.bind_of_raise (Op.bind_of_raise hlength))

/-! ### Where taking a match faults (R242, R269) -/

theorem takeElement_matched_zero (h : off.toNat = 0) : takeElement (.matched off n) s = .raise .windowRangeZero :=
  Op.bind_of_raise (if_pos (h.trans_lt Nat.one_pos))

theorem takeElement_matched_above (h : s.cfg.windowSize < off.toNat) : takeElement (.matched off n) s = .raise .windowRangeAbove :=
  Op.bind_of_raise ((if_neg (by omega)).trans (if_pos h))

theorem takeElement_matched_overrun (h1 : 1 ≤ off.toNat) (hw : off.toNat ≤ s.cfg.windowSize) (h : s.blk.remaining < n) :
    takeElement (.matched off n) s = .raise .decodeOverrun := by
  have hcopy : applyElement (.matched off n) s = .ok () (s.setWin (s.win.copy s.cfg.windowSize off.toNat n)) :=
    (if_neg h1.not_gt).trans (if_neg hw.not_gt)
  exact (Op.andThen_of_ok hcopy).trans (if_pos h)

end

/-- Settles O47: the length is read before the offset, and of the element they give first the offset is judged, then the length. -/
theorem matchFaults : Obligations.MatchFaults := by
  intro s slot lh ctor hctor hslot
  have h98 : slot < 98 := (List.getElem?_eq_some_iff.1 hctor).1
  have hfaults : ∀ k, matchSlot slot lh s = .raise k → Faults (ctor lh) s k := fun k hk => (exec_slotCtors hctor lh s).trans (Op.run_of_raise hk)
  refine ⟨fun h7 habsent => hfaults _ (Op.bind_of_raise (h7 ▸ matchElement_absent hslot h98 habsent)), fun u v n off hlen hoff => ?_⟩
  obtain ⟨e, he, -, -⟩ := matchElement_of_reads hslot h98 hlen hoff
  obtain ⟨r, rfl⟩ := hlen.eq_setBr
  obtain ⟨r', c, rfl⟩ := hoff.eq_setBr_setRep
  have htake : ∀ k, takeElement (.matched off n) ((((s.setBr r).setBr r').setRep c).setElt e) = .raise k → Faults (ctor lh) s k :=
    fun k hk => hfaults k ((Op.bind_of_ok he).trans hk)
  exact ⟨fun h0 => htake _ (takeElement_matched_zero h0), fun habove => htake _ (takeElement_matched_above habove),
    fun h1 hw hover => htake _ (takeElement_matched_overrun h1 hw hover)⟩

end Sys2Proof.Machine
end

section
/-! Pretree symbols as instructions (R181 to R187): what each writes, where it faults, and how far it moves the position. -/

namespace Sys2Proof.Machine

section
variable {s t u : State}

/-! ### What a symbol writes -/

theorem ptZeroRun_of_le {bits base : Nat} (hlt : s.upd.pos < s.upd.stop) (hn : bits ≤ s.br.stream.length)
    (hle : s.upd.pos + (bitsValue (s.br.stream.take bits) + base) ≤ s.upd.stop) :
    ∃ q, s.br.Advanced q bits ∧ ptZeroRun bits base s = .ok () ((s.setBr q).writeRun 0 (bitsValue (s.br.stream.take bits) + base)) := by
  rcases ptZeroRun_cases bits base hlt with ⟨q, -, ha, -, hq⟩ | ⟨-, hover, -⟩ | ⟨hcut, -⟩
  · exact ⟨q, ha, hq⟩
  · omega
  · omega

theorem ptZeroRun_overflow {bits base : Nat} (hlt : s.upd.pos < s.upd.stop) (hn : bits ≤ s.br.stream.length)
    (hover : s.upd.stop < s.upd.pos + (bitsValue (s.br.stream.take bits) + base)) :
    ptZeroRun bits base s = .raise (.corruptTable .runOverflow) := by
  rcases ptZeroRun_cases bits base hlt with ⟨q, -, -, hle, -⟩ | ⟨-, -, he⟩ | ⟨hcut, -⟩
  · omega
  · exact he
  · omega

theorem writeRunChecked_of_le {value run : Nat} (h : s.upd.pos + run ≤ s.upd.stop) :
    writeRunChecked value run s = .ok () (s.writeRun value run) := if_neg (Nat.not_lt.2 h)

theorem writeRunChecked_overflow {value run : Nat} (h : s.upd.stop < s.upd.pos + run) :
    writeRunChecked value run s = .raise (.corruptTable .runOverflow) := if_pos h

/-- The two fields of symbol 19 leave the update as it was: only the reader moves (R185). -/
theorem sameRun_reads {same code : Nat} (h1 : readBits 1 s = .ok same t) (h2 : decodeSymbol .pre t = .ok code u) :
    ∃ q, u = s.setBr q := by
  obtain ⟨-, -, p, rfl, -⟩ := readBits_ok h1
  obtain ⟨-, -, -, q, rfl, -⟩ := decodeSymbol_ok h2
  exact ⟨q, rfl⟩

/-- The lengths after a run (R181): the run's positions hold its value, every other what it held. -/
theorem lenAt_writeRun {value run : Nat} (hle : s.upd.pos + run ≤ s.upd.stop) (hstop : s.upd.stop ≤ s.updLens.length) (j : Nat) :
    lenAt (fillRun s.updLens s.upd.pos value run) j =
      if s.upd.pos ≤ j ∧ j < s.upd.pos + run then value else lenAt s.updLens j := lenAt_fillRun value (hle.trans hstop)

/-! ### How far a symbol moves the position -/

theorem writeRunChecked_pos {value run : Nat} (h : writeRunChecked value run s = .ok () t) :
    t.upd.pos = s.upd.pos + run ∧ s.upd.pos + run ≤ s.upd.stop := by
  rcases writeRunChecked_cases value run s with ⟨hle, hw⟩ | ⟨-, hw⟩ <;> rw [hw] at h <;> cases h
  exact ⟨rfl, hle⟩

theorem ptZeroRun_pos {bits base : Nat} (hbase : 1 ≤ base) (h : ptZeroRun bits base s = .ok () t) :
    s.upd.pos < t.upd.pos ∧ t.upd.pos ≤ s.upd.stop := by
  obtain ⟨z, u, hr, hw⟩ := Op.bind_ok_iff.1 (whileUpdating_eq_ok h)
  obtain ⟨-, -, q, rfl, -⟩ := readBits_ok hr
  obtain ⟨hpos, hle⟩ := writeRunChecked_pos hw
  rw [State.setBr_upd] at hpos hle
  omega

theorem ptSameRun_pos (h : ptSameRun s = .ok () t) : s.upd.pos < t.upd.pos ∧ t.upd.pos ≤ s.upd.stop := by
  obtain ⟨same, u, hr, h⟩ := Op.bind_ok_iff.1 (whileUpdating_eq_ok h)
  obtain ⟨code, v, hc, hw⟩ := Op.bind_ok_iff.1 h
  obtain ⟨code', v', hd, hc⟩ := Op.bind_ok_iff.1 hc
  obtain ⟨q, rfl⟩ := sameRun_reads hr hd
  split at hc <;> cases hc
  obtain ⟨hpos, hle⟩ := writeRunChecked_pos hw
  rw [State.setBr_upd] at hpos hle
  omega

/-- A pretree symbol that completes moves the position on, and not past the end of the range (R182 to R187). -/
theorem pretreeSymbol_pos {sym : Nat} (hlt : s.upd.pos < s.upd.stop) (h : pretreeSymbol sym s = .ok () t) :
    s.upd.pos < t.upd.pos ∧ t.upd.pos ≤ s.upd.stop := by
  unfold pretreeSymbol at h
  split_ifs at h
  · rw [ptDelta_ok hlt] at h
    cases h
    exact ⟨Nat.lt_succ_self _, hlt⟩
  · exact ptZeroRun_pos (by decide) h
  · exact ptZeroRun_pos (by decide) h
  · exact ptSameRun_pos h
  · cases h

/-- A pass of a range update moves the reader and writes one run that is not empty and ends inside the range (R181, R187). -/
theorem pretreePass_ok (hlt : s.upd.pos < s.upd.stop) (h : ((decodeSymbol .pre).bind pretreeSymbol) s = .ok () t) :
    ∃ q value run, t = (s.setBr q).writeRun value run ∧ 1 ≤ run ∧ s.upd.pos + run ≤ s.upd.stop := by
  obtain ⟨sym, u, hd, h⟩ := Op.bind_ok_iff.1 h
  obtain ⟨-, -, -, q, rfl, -⟩ := decodeSymbol_ok hd
  obtain ⟨hgt, hle⟩ := pretreeSymbol_pos (s := s.setBr q) hlt h
  obtain ⟨q', value, run, rfl, -, -⟩ := pretreeSymbol_ok h
  rw [State.writeRun_upd] at hgt hle
  exact ⟨q', value, run, rfl, Nat.pos_of_lt_add_right hgt, hle⟩

end

/-- Settles O28: the symbol writes a run of one, the delta-coded value, at the position. -/
theorem pretreeDeltaSymbols : Obligations.PretreeDeltaSymbols := by
  intro s c i hc hi hlt hstop
  have hsym : pretreeSymbol c = ptDelta c := if_pos hc
  refine ⟨fillRun s.updLens s.upd.pos (s.deltaHere c) 1, ?_, fillRun_length _ _ _ _, fun j => ?_⟩
  · rw [exec_pretreeCtors hi, hsym, Op.run_of_ok (ptDelta_ok hlt), State.writeRun_eq]
  · rw [lenAt_writeRun (Nat.succ_le_of_lt hlt) hstop, State.deltaHere, deltaLength]
    exact if_congr (by omega) rfl rfl

/-- Settles O29: both symbols are one operation, which reads `z` and writes a run of zeros; a number of 4 (5) bits is below 16 (32). -/
theorem pretreeZeroRuns : Obligations.PretreeZeroRuns := by
  intro s bits base i hi hlt hstop hn hle
  have hexec : exec i s = (ptZeroRun bits base).run s := by rcases hi with ⟨rfl, rfl, rfl⟩ | ⟨rfl, rfl, rfl⟩ <;> rfl
  have hz := bitsValue_take_lt bits s.br.stream
  refine ⟨?_, fun hb => ?_, fun hb => ?_⟩
  · obtain ⟨q, ha, hq⟩ := ptZeroRun_of_le hlt hn hle
    exact ⟨q, _, ha, hexec.trans (Op.run_of_ok hq), (fillRun_length _ _ _ _).trans (by rw [State.setBr_updLens]),
      lenAt_writeRun (s := s.setBr q) hle (by rwa [State.setBr_updLens])⟩
  · subst hb
    omega
  · subst hb
    omega

/-- Settles O30: the two fields move the reader only, so the value comes from the old length at the run's first position. -/
theorem pretreeSameRun : Obligations.PretreeSameRun := by
  intro s t u same code hlt hstop hsame hcode hc hle
  have hrun := ptSameRun_of_reads hlt hsame hcode
  obtain ⟨q, rfl⟩ := sameRun_reads hsame hcode
  rw [if_neg (Nat.not_lt.2 hc), writeRunChecked_of_le (s := s.setBr q) hle] at hrun
  refine ⟨_, Op.run_of_ok hrun, (fillRun_length _ _ _ _).trans (by rw [State.setBr_updLens]), fun j => ?_⟩
  rw [lenAt_writeRun (s := s.setBr q) hle (by rwa [State.setBr_updLens]), State.deltaHere, State.setBr_updLens]
  rfl

/-- Settles O31: a run is measured before any of it is written, and symbol 19 judges `newCode` before its run. -/
theorem pretreeRunFaults : Obligations.PretreeRunFaults := by
  intro s hlt
  refine ⟨fun hn hover => Op.run_of_raise (ptZeroRun_overflow hlt hn hover), fun hn hover => Op.run_of_raise (ptZeroRun_overflow hlt hn hover),
    fun same t code u hsame hcode hc hover => Op.run_of_raise ?_, fun same t code u hsame hcode hc => Op.run_of_raise ?_⟩
  · rw [ptSameRun_of_reads hlt hsame hcode, if_neg (Nat.not_lt.2 hc)]
    obtain ⟨q, rfl⟩ := sameRun_reads hsame hcode
    exact writeRunChecked_overflow (s := s.setBr q) hover
  · rw [ptSameRun_of_reads hlt hsame hcode, if_pos hc]

end Sys2Proof.Machine
end

section
/-! The two trees whose lengths stand in the stream (R98, R99, R180, R189): fields of one width, cut out of the bits read. -/

namespace Sys2Proof.Machine

/-- A field cut out of a number is the number of its bits (R10 (b), R98, R99). -/
theorem bitsValue_div_mod (a w : Nat) {bits : List Bool} (h : a + w ≤ bits.length) :
    bitsValue bits / 2 ^ (bits.length - (a + w)) % 2 ^ w = bitsValue ((bits.drop a).take w) := by
  have hback : bits.length - (a + w) = ((bits.drop a).drop w).length := by simp only [List.length_drop]; omega
  have hfield : ((bits.drop a).take w).length = w := List.length_take_of_le (by rw [List.length_drop]; omega)
  have hlt := bitsValue_lt ((bits.drop a).take w)
  rw [hfield] at hlt
  have hcut : bitsValue bits = (bitsValue (bits.take a) * 2 ^ w + bitsValue ((bits.drop a).take w)) * 2 ^ ((bits.drop a).drop w).length +
      bitsValue ((bits.drop a).drop w) := by
    conv_lhs => rw [← List.take_append_drop a bits, ← List.take_append_drop w (bits.drop a), ← List.append_assoc]
    rw [bitsValue_append, bitsValue_append, hfield]
  rw [hcut, hback, Nat.mul_comm _ (2 ^ _), Nat.mul_add_div (Nat.two_pow_pos _), Nat.div_eq_of_lt (bitsValue_lt _), Nat.add_zero,
    Nat.mul_comm, Nat.mul_add_mod, Nat.mod_eq_of_lt hlt]

/-- Field `k` of the first `total` bits, each field `width` bits wide. -/
theorem extractLsb'_bits {total width k : Nat} {bits : List Bool} (hn : total ≤ bits.length) (hk : width * k + width ≤ total) :
    ((BitVec.ofNat total (bitsValue (bits.take total))).extractLsb' (total - (width * k + width)) width).toNat =
      bitsValue ((bits.drop (width * k)).take width) := by
  have hlen : (bits.take total).length = total := List.length_take_of_le hn
  have hfield := bitsValue_div_mod (width * k) width (bits := bits.take total) (by rw [hlen]; exact hk)
  rw [hlen, List.drop_take, List.take_take, Nat.min_eq_left (by omega)] at hfield
  rw [BitVec.extractLsb'_toNat, ofNat_bitsValue_toNat, Nat.shiftRight_eq_div_pow, hfield]

section
variable {s : State}

theorem pretreeLens_bits (h : 80 ≤ s.br.stream.length) : pretreeLens (BitVec.ofNat 80 (bitsValue (s.br.stream.take 80))) =
    (List.range 20).map fun k => bitsValue ((s.br.stream.drop (4 * k)).take 4) := by
  refine List.map_congr_left fun k hk => ?_
  have hk20 : k < 20 := List.mem_range.1 hk
  rw [pretreeLenField, show 76 - 4 * k = 80 - (4 * k + 4) by omega, extractLsb'_bits h (by omega)]

theorem alignedLens_bits (h : 24 ≤ s.br.stream.length) : alignedLens (BitVec.ofNat 24 (bitsValue (s.br.stream.take 24))) =
    (List.range 8).map fun k => bitsValue ((s.br.stream.drop (3 * k)).take 3) := by
  refine List.map_congr_left fun k hk => ?_
  have hk8 : k < 8 := List.mem_range.1 hk
  rw [alignedLenField, show 21 - 3 * k = 24 - (3 * k + 3) by omega, extractLsb'_bits h (by omega)]

end

/-- Settles O33: the fields read make one number, the lengths are the fields cut out of it again, and the table is built from them. -/
theorem treesAreReadFromTheStream : Obligations.TreesAreReadFromTheStream := by
  refine fun s => ⟨fun h => ?_, fun h => Op.run_of_raise (Op.bind_of_raise (readPretreeField_of_lt h)), fun h => ?_,
    fun h => Op.run_of_raise (Op.bind_of_raise (readAlignedField_of_lt h))⟩
  · obtain ⟨q, hq, ha⟩ := readPretreeField_of_le h
    rw [← pretreeLens_bits h]
    exact ⟨q, ha, buildsTable_of_setLens (m := readPretree) rfl ((Op.bind_of_ok hq).trans (setPretree_apply _ _))⟩
  · obtain ⟨q, hq, ha⟩ := readAlignedField_of_le h
    rw [← alignedLens_bits h]
    exact ⟨q, ha, buildsTable_of_setLens (m := readAlignedTree) rfl ((Op.bind_of_ok hq).trans (setAlignedTree_apply _ _))⟩

end Sys2Proof.Machine
end

section
/-! Range updates and `readTables` as instructions (R180, R181, R187, R188, R312): their parts in order, what the passes of an update leave
alone, and the first fault. -/

namespace Sys2Proof.Machine

section
variable {s t u : State} {α β : Type}

/-! ### Parts of an instruction -/

theorem Op.andThen_of_raise {m : Op α} {n : Op β} {k : FaultKind} (h : m s = .raise k) : m.andThen n s = .raise k := Op.bind_of_raise h

theorem Op.andThen_of_stuck {m : Op α} {n : Op β} {r : Fault} (h : m s = .stuck r) : m.andThen n s = .stuck r := Op.bind_of_stuck h

/-- An operation that completes without leaving the command's status passes the outcome on to what follows it. -/
theorem Op.bind_run_of_ok {m : Op α} {f : α → Op Unit} {a : α} (h : m s = .ok a t) (hst : s.SameStatus t) :
    (m.bind f).run s = (f a).run t := by
  rw [Op.run, Op.bind_of_ok h, Op.run]
  cases f a t with
  | ok b u => rfl
  | raise k => exact congrArg _ (hst.takeFault k).symm
  | stuck r => rfl

theorem Op.andThen_run_of_ok {m : Op α} {n : Op Unit} {a : α} (h : m s = .ok a t) (hst : s.SameStatus t) : (m.andThen n).run s = n.run t :=
  Op.bind_run_of_ok h hst

/-- An operation run to its end has completed, if no free value was drawn. -/
theorem Op.ok_of_run {m : Op Unit} (h : m.run s = .next t) (hfree : t.freeCtr = s.freeCtr) : m s = .ok () t := by
  rcases Op.run_next h with hok | ⟨k, -, rfl⟩
  · exact hok
  · exact absurd hfree (Nat.succ_ne_self s.freeCtr)

/-- What follows an operation that has faulted is not reached (R313 (1)). -/
theorem Op.andThen_run_of_fault {m n : Op Unit} {k : FaultKind} (hm : m.Keeps s.SameStatus) (h : m.run s = .next (takeFault k s)) :
    (m.andThen n).run s = .next (takeFault k s) := by
  rcases Op.run_next h with hok | ⟨k', hraise, hfault⟩
  · have hfree := (hm s () _ (State.SameOutside.refl s).toSameStatus hok).freeCtr
    exact absurd hfree (Nat.succ_ne_self s.freeCtr)
  · rw [Op.run_of_raise (Op.andThen_of_raise hraise), hfault]

/-! ### The passes of a range update (R181) -/

/-- A pass is a symbol decoded and its operation, which completes. -/
theorem PretreePass.ok (h : PretreePass s t) : s.upd.pos < s.upd.stop ∧ ((decodeSymbol .pre).bind pretreeSymbol) s = .ok () t := by
  obtain ⟨hlt, sym, u, i, hd, hi, hexec, hfree⟩ := h
  rw [exec_pretreeCtors hi] at hexec
  exact ⟨hlt, (Op.bind_of_ok hd).trans (Op.ok_of_run hexec hfree)⟩

/-- The loop does the passes: each moves the position on, so as many as there are positions are enough. -/
theorem PretreePasses.updateLoop (h : PretreePasses s t) : ∀ {n : Nat}, s.upd.stop ≤ s.upd.pos + n → updateLoop n s = .ok () t := by
  induction h with
  | done hend =>
    intro n _
    cases n with
    | zero => rfl
    | succ n => exact if_neg hend
  | @pass s u t hpass _ ih =>
    obtain ⟨hlt, hok⟩ := hpass.ok
    intro n hn
    obtain ⟨m, rfl⟩ : ∃ m, n = m + 1 := ⟨n - 1, by omega⟩
    rw [updateLoop_pass hlt hok]
    obtain ⟨q, value, run, rfl, hrun, -⟩ := pretreePass_ok hlt hok
    refine ih ?_
    show s.upd.stop ≤ s.upd.pos + run + m
    omega

/-- What a range update from `s` to `t` does to the update's registers and the tables: the position is the range's end, the other tables stay,
and of the array's table only lengths inside the range may change (R181, R347). -/
structure RangeDone (s t : State) : Prop where
  upd : t.upd = { s.upd with pos := s.upd.stop }
  others : ∀ k, k ≠ lensKind s.upd.target → t.table k = s.table k
  array : ∃ lens, t.table (lensKind s.upd.target) = { s.table (lensKind s.upd.target) with lens := lens } ∧
    lens.length = s.updLens.length ∧ ∀ j, j < s.upd.pos ∨ s.upd.stop ≤ j → lenAt lens j = lenAt s.updLens j

theorem RangeDone.refl (h : s.upd.pos = s.upd.stop) : RangeDone s s :=
  ⟨by rw [← h], fun _ _ => rfl, s.updLens, rfl, rfl, fun _ _ => rfl⟩

/-- One run inside the range, before the rest of the update. -/
theorem RangeDone.of_writeRun {q : Reader} {value run : Nat} (hle : s.upd.pos + run ≤ s.upd.stop) (hstop : s.upd.stop ≤ s.updLens.length)
    (h : RangeDone ((s.setBr q).writeRun value run) t) : RangeDone s t := by
  obtain ⟨lens, htable, hlen, hkept⟩ := h.array
  refine ⟨h.upd, fun k hk => ?_, lens, htable.trans ?_, ?_, fun j hj => ?_⟩
  · rw [h.others k hk, State.writeRun_table_other (s.setBr q) value run (k := k) hk, State.setBr_table]
  · rw [State.writeRun_upd, State.setBr_upd, show lensKind s.upd.target = lensKind (s.setBr q).upd.target from rfl,
      State.writeRun_table_same, State.setBr_table]
  · rw [hlen, State.writeRun_updLens, fillRun_length, State.setBr_updLens]
  · rw [hkept j (by show j < s.upd.pos + run ∨ s.upd.stop ≤ j; omega), State.writeRun_updLens, State.setBr_updLens]
    exact (lenAt_writeRun hle hstop j).trans (if_neg (by omega))

theorem PretreePasses.rangeDone (h : PretreePasses s t) (hpos : s.upd.pos ≤ s.upd.stop) (hstop : s.upd.stop ≤ s.updLens.length) :
    RangeDone s t := by
  induction h with
  | done hend => exact .refl (by omega)
  | @pass s u t hpass _ ih =>
    obtain ⟨hlt, hok⟩ := hpass.ok
    obtain ⟨q, value, run, rfl, -, hle⟩ := pretreePass_ok hlt hok
    exact .of_writeRun hle hstop (ih hle (by rwa [State.writeRun_updLens, fillRun_length, State.setBr_updLens]))

/-- `readPretree` moves the reader and sets the pretree (R180). -/
theorem readPretree_ok (h : readPretree s = .ok () t) : ∃ q w, t = (s.setBr q).setTable .pre w := by
  obtain ⟨l, u, hread, hset⟩ := Op.bind_ok_iff.1 h
  obtain ⟨q, rfl, -⟩ := taken_of_ok readPretreeField_of_le readPretreeField_of_lt hread
  rw [setPretree_apply] at hset
  obtain ⟨w, -, rfl⟩ := buildTable_ok hset
  exact ⟨q, w, State.setTable_setTable _ _ _ _⟩

theorem lensKind_ne_pre (target : LenArray) : lensKind target ≠ .pre := by cases target <;> decide

end

/-- Settles O34: the passes are the update's loop, and each writes a run inside the range. -/
theorem updateRangeRunsItsSymbols : Obligations.UpdateRangeRunsItsSymbols := by
  intro s s1 t target start stop hle hstop hread hpasses
  have hpretree : readPretree s = .ok () s1 := Op.ok_of_run hread.1 hread.2
  have hloop : updateLoop (stop - start) (s1.setUpd ⟨target, start, stop⟩) = .ok () t :=
    hpasses.updateLoop (by show stop ≤ start + (stop - start); omega)
  have hupdate : updateRange target start stop s = .ok () t :=
    (Op.andThen_of_ok hpretree).trans ((Op.andThen_of_ok (Op.modify_apply _ s1)).trans hloop)
  obtain ⟨q, w, rfl⟩ := readPretree_ok hpretree
  have htable (k : TableKind) (hk : k ≠ .pre) : ((s.setBr q).setTable .pre w).table k = s.table k := by
    rw [State.setTable_table_other _ _ _ _ hk, State.setBr_table]
  have hlens : (((s.setBr q).setTable .pre w).setUpd ⟨target, start, stop⟩).updLens = (s.table (lensKind target)).lens := by
    rw [State.updLens, State.setUpd_table]
    exact congrArg Table.lens (htable _ (lensKind_ne_pre target))
  have hdone := hpasses.rangeDone hle (by rwa [hlens])
  obtain ⟨lens, harray, hlen, hkept⟩ := hdone.array
  rw [hlens] at hlen hkept
  rw [State.setUpd_table] at harray
  have harray' : t.table (lensKind target) = { s.table (lensKind target) with lens := lens } :=
    harray.trans (by rw [State.setUpd_upd, htable _ (lensKind_ne_pre target)])
  refine ⟨(exec_updateRange hle hstop).trans (Op.run_of_ok hupdate), hdone.upd, ?_, fun j hj => ?_, fun k hk hpre => ?_, ?_, ?_, ?_⟩
  · rw [harray', hlen]
  · rw [harray', hkept j hj]
  · rw [hdone.others k hk, State.setUpd_table, htable k hpre]
  all_goals rw [harray']

section
variable {s t : State}

/-! ### The parts of `readTables` (R188) -/

/-- An instruction that completes keeps the command's status: it has taken no fault. -/
theorem Completes.sameStatus {i : Instr} (h : Completes i s t) (hconstruct : ∀ w, i ≠ .construct w) (hreset : i ≠ .reset) : s.SameStatus t := by
  rcases exec_status h.1 hconstruct hreset with hs | ⟨k, rfl⟩
  · exact hs
  · exact absurd h.2 (Nat.succ_ne_self s.freeCtr)

/-- The range update of a part, as the instruction that does it alone. -/
abbrev stageInstr (stage : UpdateStage) (s : State) : Instr :=
  .updateRange (stageTarget stage) (stageStart stage) (stageStop s.cfg.positionSlots stage)

/-- An update that answers a next state is inside its domain, and is its operation run. -/
theorem updateStage_run {stage : UpdateStage} (h : exec (stageInstr stage s) s = .next t) : (updateStage stage).run s = .next t :=
  passed h nofun

theorem updateStage_then {stage : UpdateStage} (h : Completes (stageInstr stage s) s t) (n : Op Unit) :
    ((updateStage stage).andThen n).run s = n.run t :=
  Op.andThen_run_of_ok (Op.ok_of_run (updateStage_run h.1) h.2) (h.sameStatus nofun nofun)

theorem updateStage_faults {stage : UpdateStage} {k : FaultKind} (h : Faults (stageInstr stage s) s k) (n : Op Unit) :
    ((updateStage stage).andThen n).run s = .next (takeFault k s) :=
  Op.andThen_run_of_fault (.status fun _ => updateStage_framed stage) (updateStage_run h)

theorem buildTable_then {kind : TableKind} (h : Completes (.buildTable kind) s t) (n : Op Unit) :
    ((buildTable kind).andThen n).run s = n.run t :=
  Op.andThen_run_of_ok (Op.ok_of_run h.1 h.2) (h.sameStatus nofun nofun)

theorem buildTable_faults {kind : TableKind} {k : FaultKind} (h : Faults (.buildTable kind) s k) (n : Op Unit) :
    ((buildTable kind).andThen n).run s = .next (takeFault k s) :=
  Op.andThen_run_of_fault (.status fun _ => buildTable_framed kind) h

end

/-- Settles O37: a part that completes passes the outcome on to the parts after it, a part that faults ends the operation, and the fault is
the one that would be taken at its start. -/
theorem readTablesInOrder : Obligations.ReadTablesInOrder := by
  intro s s1 s2 s3 s4 t k
  have literals (h : Completes (stageInstr .literals s) s s1) : exec .readTables s = _ := updateStage_then h _
  have fault {u : State} (h : s.SameStatus u) : Host.Outcome.next (takeFault k u) = (.next (takeFault k s) : Outcome) :=
    congrArg _ (h.takeFault k)
  refine ⟨fun h1 h2 h3 h4 h5 => ?_, fun h1 => updateStage_faults (stage := .literals) h1 _, fun h1 h2 => ?_, fun h1 h2 h3 => ?_,
    fun h1 h2 h3 h4 => ?_, fun h1 h2 h3 h4 h5 => ?_⟩
  · rw [literals h1, updateStage_then (stage := .matches) h2, buildTable_then h3, updateStage_then (stage := .lengths) h4]
    exact h5.1
  all_goals
    have hs1 : s.SameStatus s1 := h1.sameStatus nofun nofun
    unfold Faults
    rw [literals h1]
  · rw [updateStage_faults (stage := .matches) h2, fault hs1]
  all_goals
    have hs2 := hs1.trans (h2.sameStatus nofun nofun)
    rw [updateStage_then (stage := .matches) h2]
  · rw [buildTable_faults h3, fault hs2]
  all_goals
    have hs3 := hs2.trans (h3.sameStatus nofun nofun)
    rw [buildTable_then h3]
  · rw [updateStage_faults (stage := .lengths) h4, fault hs3]
  · rw [updateStage_then (stage := .lengths) h4, ← fault (hs3.trans (h4.sameStatus nofun nofun))]
    exact h5

end Sys2Proof.Machine
end

section
/-! Operations that work apart from the sequencer's own registers: the command's place (log 10) and its counts (R45). Doing such an operation and
writing such a register come to the same in either order. -/

namespace Sys2Proof.Machine

section
variable {α β : Type}

/-! ### Doing something before an operation or after it -/

/-- What an operation answers, with `f` done to the state it leaves. -/
def Res.mapState (f : State → State) : Res α → Res α
  | .ok a s => .ok a (f s)
  | .raise k => .raise k
  | .stuck r => .stuck r

/-- Doing `f` before the operation comes to the same as doing it after. -/
def Op.Commutes (f : State → State) (m : Op α) : Prop := ∀ s, m (f s) = (m s).mapState f

section
variable {f : State → State} {m : Op α}

theorem Op.Commutes.bind {n : α → Op β} (hm : m.Commutes f) (hn : ∀ a, (n a).Commutes f) : (m.bind n).Commutes f := by
  intro s
  have h := hm s
  cases hs : m s with
  | ok a t =>
    rw [hs] at h
    rw [Op.bind_of_ok hs, Op.bind_of_ok h]
    exact hn a t
  | raise k =>
    rw [hs] at h
    rw [Op.bind_of_raise hs, Op.bind_of_raise h]
    rfl
  | stuck r =>
    rw [hs] at h
    rw [Op.bind_of_stuck hs, Op.bind_of_stuck h]
    rfl

theorem Op.Commutes.andThen {n : Op β} (hm : m.Commutes f) (hn : n.Commutes f) : (m.andThen n).Commutes f := hm.bind fun _ => hn

/-- An operation whose shape depends on something that `f` leaves alone. -/
theorem Op.Commutes.reading {γ : Type} {g : State → γ} {n : γ → Op α} (hg : ∀ s, g (f s) = g s) (hn : ∀ c, (n c).Commutes f) :
    Op.Commutes f fun s => n (g s) s := by
  intro s
  dsimp only
  rw [hg]
  exact hn (g s) s

theorem Op.Commutes.ite {c : State → Prop} [DecidablePred c] {n : Op α} (hc : ∀ s, c (f s) ↔ c s) (hm : m.Commutes f) (hn : n.Commutes f) :
    Op.Commutes f fun s => if c s then m s else n s := by
  intro s
  dsimp only
  by_cases h : c s
  · rw [if_pos h, if_pos ((hc s).2 h), hm]
  · rw [if_neg h, if_neg (mt (hc s).1 h), hn]

theorem Op.pure_commutes (a : α) : (Op.pure a).Commutes f := fun _ => rfl

theorem Op.raise_commutes (k : FaultKind) : (Op.raise k : Op α).Commutes f := fun _ => rfl

theorem Op.stuck_commutes (r : Fault) : (Op.stuck r : Op α).Commutes f := fun _ => rfl

theorem Op.get_commutes {g : State → α} (hg : ∀ s, g (f s) = g s) : (Op.get g).Commutes f := fun s =>
  congrArg (Res.ok · (f s)) (hg s)

theorem Op.modify_commutes {g : State → State} (hg : ∀ s, g (f s) = f (g s)) : (Op.modify g).Commutes f := fun s => congrArg _ (hg s)

end
end

/-- `f` writes registers that decoding neither reads nor writes. -/
structure Aside (f : State → State) : Prop where
  cfg : ∀ s, (f s).cfg = s.cfg
  br : ∀ s, (f s).br = s.br
  rep : ∀ s, (f s).rep = s.rep
  blk : ∀ s, (f s).blk = s.blk
  win : ∀ s, (f s).win = s.win
  upd : ∀ s, (f s).upd = s.upd
  hdr : ∀ s, (f s).hdr = s.hdr
  elt : ∀ s, (f s).elt = s.elt
  table : ∀ s k, (f s).table k = s.table k
  setBr : ∀ s v, (f s).setBr v = f (s.setBr v)
  setRep : ∀ s v, (f s).setRep v = f (s.setRep v)
  setBlk : ∀ s v, (f s).setBlk v = f (s.setBlk v)
  setWin : ∀ s v, (f s).setWin v = f (s.setWin v)
  setUpd : ∀ s v, (f s).setUpd v = f (s.setUpd v)
  setHdr : ∀ s v, (f s).setHdr v = f (s.setHdr v)
  setElt : ∀ s v, (f s).setElt v = f (s.setElt v)
  setTable : ∀ s k v, (f s).setTable k v = f (s.setTable k v)

theorem setPhase_aside (p : Phase) : Aside (State.setPhase · p) := by
  constructor
  case table => exact fun s k => State.setPhase_table s k p
  case setTable => rintro s (_ | _ | _ | _) v <;> rfl
  all_goals intros; rfl

theorem setCmd_aside (c : Command) : Aside (State.setCmd · c) := by
  constructor
  case table => exact fun s k => State.setCmd_table s k c
  case setTable => rintro s (_ | _ | _ | _) v <;> rfl
  all_goals intros; rfl

section
variable {f : State → State} (hf : Aside f)
include hf

/-! ### Reading -/

theorem onReader_commutes {α : Type} (g : Reader → Except FaultKind (α × Reader)) : (onReader g).Commutes f := by
  intro s
  cases h : g s.br with
  | ok p =>
    obtain ⟨a, r⟩ := p
    rw [onReader_of_ok h, onReader_of_ok (s := f s) (by rw [hf.br]; exact h), hf.setBr]
    rfl
  | error k =>
    rw [onReader_of_error h, onReader_of_error (s := f s) (by rw [hf.br]; exact h)]
    rfl

theorem readBits_commutes (n : Nat) : (readBits n).Commutes f := onReader_commutes hf _

theorem readU32le_commutes : readU32le.Commutes f :=
  (readBits_commutes hf 16).bind fun _ => (readBits_commutes hf 16).bind fun _ => Op.pure_commutes _

theorem readU24be_commutes : readU24be.Commutes f :=
  (readBits_commutes hf 16).bind fun _ => (readBits_commutes hf 8).bind fun _ => Op.pure_commutes _

theorem readFields_commutes (width : Nat) : ∀ count : Nat, (readFields width count).Commutes f
  | 0 => Op.pure_commutes _
  | count + 1 => (readBits_commutes hf width).bind fun _ => (readFields_commutes width count).bind fun _ => Op.pure_commutes _

theorem skipPadByte_commutes : skipPadByte.Commutes f := (onReader_commutes hf _).bind fun _ => Op.pure_commutes _

theorem readHeader_commutes : readHeader.Commutes f :=
  (readBits_commutes hf 3).bind fun _ => (readU24be_commutes hf).bind fun _ => Op.pure_commutes _

theorem readOffsetValues_commutes : readOffsetValues.Commutes f :=
  (readU32le_commutes hf).bind fun _ => (readU32le_commutes hf).bind fun _ => (readU32le_commutes hf).bind fun _ => Op.pure_commutes _

/-! ### Tables -/

theorem decodeSymbol_commutes (k : TableKind) : (decodeSymbol k).Commutes f := by
  have hlookup (idx : Nat) : (lookupSymbol k idx).Commutes f := by
    intro s
    unfold lookupSymbol
    rw [hf.table]
    cases (s.table k).tab[idx]? <;> rfl
  have hsym : Op.Commutes f fun s => ((peekBits (s.table k).maxLength).bind fun idx => (lookupSymbol k idx).bind fun sym =>
      (readBits (lenAt (s.table k).lens sym)).bind fun _ => Op.pure sym) s :=
    .reading (g := fun s => s.table k) (n := fun t => (peekBits t.maxLength).bind fun idx => (lookupSymbol k idx).bind fun sym =>
        (readBits (lenAt t.lens sym)).bind fun _ => Op.pure sym) (hf.table · k) fun t =>
      (onReader_commutes hf _).bind fun idx => (hlookup idx).bind fun sym =>
        (readBits_commutes hf (lenAt t.lens sym)).bind fun _ => Op.pure_commutes sym
  exact .ite (fun s => by rw [State.present, hf.table]; rfl) hsym (Op.raise_commutes _)

theorem buildTable_commutes (k : TableKind) : (buildTable k).Commutes f := by
  intro s
  unfold buildTable
  rw [hf.table]
  cases (s.table k).build k with
  | ok t => exact congrArg (Res.ok ()) (hf.setTable s k t)
  | error e => rfl

theorem setTable_commutes (k : TableKind) (g : Table → Table) : (Op.modify fun s => s.setTable k (g (s.table k))).Commutes f :=
  Op.modify_commutes fun s => by rw [hf.table, hf.setTable]

theorem readPretree_commutes : readPretree.Commutes f :=
  ((readFields_commutes hf 4 nPre).bind fun _ => Op.pure_commutes _).bind fun l =>
    (setTable_commutes hf .pre fun t => { t with lens := (List.range nPre).map (pretreeLenField l) }).andThen (buildTable_commutes hf .pre)

theorem readAlignedTree_commutes : readAlignedTree.Commutes f :=
  ((readFields_commutes hf 3 nAlign).bind fun _ => Op.pure_commutes _).bind fun l =>
    (setTable_commutes hf .align fun t => { t with lens := (List.range nAlign).map (alignedLenField l) }).andThen
      (buildTable_commutes hf .align)

theorem updLens_aside (s : State) : (f s).updLens = s.updLens := by rw [State.updLens, hf.upd, hf.table]; rfl

theorem writeRun_aside (s : State) (value run : Nat) : (f s).writeRun value run = f (s.writeRun value run) := by
  simp only [State.writeRun, State.setUpdLens, updLens_aside hf, hf.upd, hf.table, hf.setTable, hf.setUpd]

theorem deltaHere_aside (s : State) (code : Nat) : (f s).deltaHere code = s.deltaHere code := by
  rw [State.deltaHere, updLens_aside hf, hf.upd]
  rfl

theorem whileUpdating_commutes {m : Op Unit} (hm : m.Commutes f) : (whileUpdating m).Commutes f :=
  .ite (fun s => by rw [hf.upd]) hm (Op.stuck_commutes _)

theorem writeRunChecked_commutes (value run : Nat) : (writeRunChecked value run).Commutes f :=
  .ite (n := Op.modify fun s => s.writeRun value run) (fun s => by rw [hf.upd]) (Op.raise_commutes _)
    (Op.modify_commutes fun s => writeRun_aside hf s value run)

theorem ptDelta_commutes (code : Nat) : (ptDelta code).Commutes f :=
  whileUpdating_commutes hf (Op.modify_commutes fun s => by rw [deltaHere_aside hf, writeRun_aside hf])

theorem ptZeroRun_commutes (bits base : Nat) : (ptZeroRun bits base).Commutes f :=
  whileUpdating_commutes hf ((readBits_commutes hf bits).bind fun _ => writeRunChecked_commutes hf 0 _)

theorem ptSameRun_commutes : ptSameRun.Commutes f := by
  have hcode : readNewCode.Commutes f := (decodeSymbol_commutes hf .pre).bind fun code => by
    split
    · exact Op.raise_commutes _
    · exact Op.pure_commutes _
  exact whileUpdating_commutes hf <| (readBits_commutes hf 1).bind fun same => hcode.bind fun code =>
    .reading (deltaHere_aside hf · code) fun value => writeRunChecked_commutes hf value (same + 4)

theorem pretreeSymbol_commutes (sym : Nat) : (pretreeSymbol sym).Commutes f := by
  unfold pretreeSymbol
  split_ifs
  · exact ptDelta_commutes hf sym
  · exact ptZeroRun_commutes hf 4 4
  · exact ptZeroRun_commutes hf 5 20
  · exact ptSameRun_commutes hf
  · exact Op.raise_commutes _

theorem updateLoop_commutes : ∀ n : Nat, (updateLoop n).Commutes f
  | 0 => Op.pure_commutes ()
  | n + 1 =>
    have hpass : (((decodeSymbol .pre).bind pretreeSymbol).andThen (updateLoop n)).Commutes f :=
      ((decodeSymbol_commutes hf .pre).bind (pretreeSymbol_commutes hf)).andThen (updateLoop_commutes n)
    hpass.ite (fun s => by rw [hf.upd]) (Op.pure_commutes ())

theorem updateStage_commutes (stage : UpdateStage) : (updateStage stage).Commutes f :=
  .reading (g := State.cfg) (n := fun cfg => updateRange (stageTarget stage) (stageStart stage) (stageStop cfg.positionSlots stage)) hf.cfg
    fun _ => (readPretree_commutes hf).andThen ((Op.modify_commutes fun s => hf.setUpd s _).andThen (updateLoop_commutes hf _))

theorem readTables_commutes : readTables.Commutes f :=
  (updateStage_commutes hf .literals).andThen <| (updateStage_commutes hf .matches).andThen <| (buildTable_commutes hf .main).andThen <|
    (updateStage_commutes hf .lengths).andThen (buildTable_commutes hf .len)

/-! ### Blocks -/

theorem blockHeader_commutes (tag : Nat) (size : BitVec 24) : (blockHeader tag size).Commutes f := by
  unfold blockHeader
  split
  · exact Op.modify_commutes fun s => hf.setHdr s _
  · exact Op.raise_commutes _

theorem setBlockOffsets_commutes (r0 r1 r2 : Word32) : (setBlockOffsets r0 r1 r2).Commutes f :=
  Op.modify_commutes fun s => by rw [hf.blk, hf.setBlk]

theorem readUncompressedBody_commutes : readUncompressedBody.Commutes f :=
  (onReader_commutes hf _).andThen ((readOffsetValues_commutes hf).bind fun _ => setBlockOffsets_commutes hf _ _ _)

theorem readBody_commutes : readBody.Commutes f := by
  intro s
  unfold readBody
  rw [hf.hdr]
  cases s.hdr.kind with
  | none => rfl
  | verbatim => exact readTables_commutes hf s
  | aligned => exact (readAlignedTree_commutes hf).andThen (readTables_commutes hf) s
  | uncompressed => exact readUncompressedBody_commutes hf s

theorem commitBlock_commutes : commitBlock.Commutes f :=
  .ite (n := Op.modify fun s => s.setBlk { s.blk with kind := s.hdr.kind, size := s.hdr.size, remaining := s.hdr.size })
    (fun s => by rw [hf.hdr]) (Op.raise_commutes _) (Op.modify_commutes fun s => by rw [hf.hdr, hf.blk, hf.setBlk])

theorem readBlock_commutes : readBlock.Commutes f :=
  ((readHeader_commutes hf).bind fun _ => blockHeader_commutes hf _ _).andThen ((readBody_commutes hf).andThen (commitBlock_commutes hf))

/-! ### Chunks -/

theorem e8_commutes : ((readBits 1).bind e8Flag).Commutes f := (readBits_commutes hf 1).bind fun bit => by
  unfold e8Flag
  split
  · exact Op.raise_commutes _
  · exact Op.pure_commutes _

theorem readE8_commutes (h : ∀ s, (f s).decodedChunks = s.decodedChunks) : readE8.Commutes f :=
  (e8_commutes hf).ite (fun s => by rw [State.firstChunk, h]; rfl) (Op.pure_commutes ())

theorem startBlock_commutes : startBlock.Commutes f := by
  have hpad : skipOwedPadByte.Commutes f := (skipPadByte_commutes hf).ite (fun s => by rw [State.padOwed, hf.blk]; rfl) (Op.pure_commutes ())
  exact (hpad.andThen (readBlock_commutes hf)).ite (fun s => by rw [State.blockExhausted, hf.blk]; rfl) (Op.pure_commutes ())

/-! ### Elements -/

theorem setElt_commutes (g : MatchLocals → MatchLocals) : (Op.modify fun s => s.setElt (g s.elt)).Commutes f :=
  Op.modify_commutes fun s => by rw [hf.elt, hf.setElt]

theorem matchLength_commutes (lh : Nat) : (matchLength lh).Commutes f := by
  have hset (n : Nat) : (setMatchLength n).Commutes f := setElt_commutes hf fun e => { e with length := n }
  have hheader : (lengthHeader lh).Commutes f := by
    unfold lengthHeader
    split
    · exact (decodeSymbol_commutes hf .len).bind fun n => hset _
    · exact hset _
  exact hheader.andThen (Op.get_commutes fun s => by rw [hf.elt])

theorem setMatchOffset_commutes (offset : Word32) : (setMatchOffset offset).Commutes f :=
  setElt_commutes hf fun e => { e with offset := offset }

theorem newOffset_commutes (offset : Word32) : (newOffset offset).Commutes f :=
  (setMatchOffset_commutes hf offset).andThen (Op.modify_commutes fun s => by rw [hf.rep, hf.setRep])

theorem alignedPath_aside (s : State) (slot : Nat) : (f s).alignedPath slot = s.alignedPath slot := by
  rw [State.alignedPath, hf.blk]
  rfl

theorem footerField_commutes : footerField.Commutes f := by
  have hraw : readRawOffsetBits.Commutes f :=
    .reading (g := fun s => s.rawOffsetBits s.elt.slot) (fun s => by simp only [State.rawOffsetBits, alignedPath_aside hf, hf.elt])
      fun n => (readBits_commutes hf n).bind fun v => setElt_commutes hf fun e => { e with v := v }
  have hdone : verbatimOffsetDone.Commutes f :=
    .reading (g := fun s => verbatimOffset s.elt.slot s.elt.v) (fun s => by rw [hf.elt]) (newOffset_commutes hf)
  exact hraw.andThen (.ite (fun s => by rw [alignedPath_aside hf, hf.elt]) (Op.pure_commutes ()) hdone)

theorem matchOffset_commutes : ∀ slot : Nat, (matchOffset slot).Commutes f
  | 0 => .reading (g := fun s => s.rep.r0) (n := setMatchOffset) (fun s => by rw [hf.rep]) (setMatchOffset_commutes hf)
  | 1 =>
    .reading (g := State.rep) (n := fun c => (Op.modify fun t => t.setRep ⟨c.r1, c.r0, c.r2⟩).andThen (setMatchOffset c.r1)) hf.rep fun c =>
      (Op.modify_commutes fun s => hf.setRep s _).andThen (setMatchOffset_commutes hf c.r1)
  | 2 =>
    .reading (g := State.rep) (n := fun c => (Op.modify fun t => t.setRep ⟨c.r2, c.r1, c.r0⟩).andThen (setMatchOffset c.r2)) hf.rep fun c =>
      (Op.modify_commutes fun s => hf.setRep s _).andThen (setMatchOffset_commutes hf c.r2)
  | slot + 3 =>
    have haligned : ((decodeSymbol .align).bind alignedSymbol).Commutes f := (decodeSymbol_commutes hf .align).bind fun a =>
      .reading (g := fun s => alignedOffset s.elt.slot s.elt.v a) (fun s => by rw [hf.elt]) (newOffset_commutes hf)
    (setElt_commutes hf fun e => { e with slot := slot + 3 }).andThen <| (footerField_commutes hf).andThen <|
      haligned.ite (fun s => by rw [alignedPath_aside hf]) (Op.pure_commutes ())

theorem matchElement_commutes (slot lh : Nat) : (matchElement slot lh).Commutes f :=
  .ite (fun s => by rw [hf.cfg])
    ((matchLength_commutes hf lh).bind fun length => (matchOffset_commutes hf slot).andThen (Op.get_commutes fun s => by rw [hf.elt]))
    (Op.stuck_commutes _)

theorem decodeElement_commutes : decodeElement.Commutes f := by
  have hraw : decodeUncompressed.Commutes f :=
    (Op.modify_commutes fun s => by rw [hf.blk, hf.setRep]).andThen <|
      .ite (n := Op.get fun s => Element.bulkRead (min s.blk.remaining s.br.remaining)) (fun s => by rw [hf.blk, hf.br])
        (Op.raise_commutes _) (Op.get_commutes fun s => by rw [hf.blk, hf.br])
  have hcoded : decodeCoded.Commutes f := (decodeSymbol_commutes hf .main).bind fun sym => by
    split
    · exact Op.pure_commutes _
    · exact matchElement_commutes hf _ _
  exact hraw.ite (fun s => by rw [hf.blk]) hcoded

theorem applyElement_commutes (e : Element) : (applyElement e).Commutes f := by
  cases e with
  | literal b => exact Op.modify_commutes fun s => by rw [hf.win, hf.cfg, hf.setWin]
  | matched offset length =>
    exact .ite (c := fun _ => offset.toNat < 1) (fun _ => Iff.rfl) (Op.raise_commutes _) <|
      .ite (n := Op.modify fun s => s.setWin (s.win.copy s.cfg.windowSize offset.toNat length)) (fun s => by rw [hf.cfg])
        (Op.raise_commutes _) (Op.modify_commutes fun s => by rw [hf.win, hf.cfg, hf.setWin])
  | bulkRead n => exact (onReader_commutes hf _).bind fun v => Op.modify_commutes fun s => by rw [hf.win, hf.cfg, hf.setWin]

end
end Sys2Proof.Machine
end

section
/-! One step of a running command, as an operation (R200, R201, R188, R263; log 10): the part of the command at its place, then the move. -/

namespace Sys2Proof.Machine

section
variable {s t : State} {α β : Type}

theorem Op.run_congr {m n : Op Unit} (h : m s = n s) : m.run s = n.run s := by rw [Op.run, Op.run, h]

theorem Op.bind_congr {m n : Op α} {f : α → Op β} (h : m s = n s) : m.bind f s = n.bind f s := by rw [Op.bind, Op.bind, h]

theorem Op.andThen_assoc {γ : Type} (m : Op α) (n : Op β) (l : Op γ) : (m.andThen n).andThen l = m.andThen (n.andThen l) :=
  Op.bind_assoc m (fun _ => n) fun _ => l

/-! ### The place and the counts -/

section
variable {m : Op α}

/-- What `f` leaves alone before the operation it leaves alone after it. -/
theorem Op.Commutes.fixed {f : State → State} {a : α} (h : m.Commutes f) (hs : f s = s) (hm : m s = .ok a t) : f t = t := by
  have hf := h s
  rw [hs, hm] at hf
  injection hf with _ ht
  exact ht.symm

/-- The operation neither looks at the command's place nor moves it. -/
def Op.Placeless (m : Op α) : Prop := ∀ p, m.Commutes (State.setPhase · p)

/-- The operation works apart from the command's place and counts. -/
def Op.Apart (m : Op α) : Prop := ∀ f, Aside f → m.Commutes f

theorem Op.Apart.placeless (h : m.Apart) : m.Placeless := fun p => h _ (setPhase_aside p)

theorem Op.Placeless.phase {a : α} (h : m.Placeless) (hm : m s = .ok a t) : t.phase = s.phase :=
  (congrArg State.phase ((h s.phase).fixed rfl hm)).symm

theorem Op.Apart.cmd {a : α} (h : m.Apart) (hm : m s = .ok a t) : t.cmd = s.cmd :=
  (congrArg State.cmd ((h _ (setCmd_aside s.cmd)).fixed rfl hm)).symm

/-- The operation's outcome is the same whatever place it starts from: it moves to one of its own. -/
def Op.Blind (m : Op α) : Prop := ∀ s p, m (s.setPhase p) = m s

theorem goTo_blind (q : Phase) : (goTo q).Blind := fun _ _ => rfl

theorem Op.Placeless.blind {n : Op β} (hm : m.Placeless) (hn : n.Blind) : (m.andThen n).Blind := by
  intro s p
  have h := hm p s
  cases hs : m s with
  | ok a t =>
    rw [hs] at h
    rw [Op.andThen_of_ok hs, Op.andThen_of_ok h]
    exact hn t p
  | raise k =>
    rw [hs] at h
    exact (Op.bind_of_raise h).trans (Op.bind_of_raise hs).symm
  | stuck r =>
    rw [hs] at h
    exact (Op.bind_of_stuck h).trans (Op.bind_of_stuck hs).symm

end

/-! ### One step is the part of the command at its place, then the move -/

/-- The part of a chunk command that a step does at a place (R263, R201, R188). -/
def Phase.part : Phase → Op Unit
  | .idle => Op.pure ()
  | .e8 => (readBits 1).bind e8Flag
  | .padByte => skipPadByte
  | .header => readHeader.bind fun h => blockHeader h.1 h.2
  | .alignPad => align
  | .rValues => readOffsetValues.bind fun v => setBlockOffsets v.1 v.2.1 v.2.2
  | .alignedLens => readAlignedTree
  | .pretreeLens _ => readPretree
  | .pretreeSym _ => (decodeSymbol .pre).bind pretreeSymbol
  | .element => decodeElement.bind takeElement
  | .tail => finishChunk

theorem Phase.part_status (p : Phase) {c : State} : p.part.Keeps c.SameStatus := by
  have hstable := State.SameOutside.stable
  cases p with
  | idle => exact Op.pure_keeps ()
  | e8 => exact .status fun _ => (readBits_framed 1).bind e8Flag_framed
  | padByte => exact .status fun _ => skipPadByte_framed
  | header => exact .status fun _ => readHeader_framed.bind fun _ => blockHeader_framed _ _
  | alignPad => exact .status (m := align) fun _ => onReader_framed _
  | rValues => exact .status fun _ => readOffsetValues_framed.bind fun _ => setBlockOffsets_framed _ _ _
  | alignedLens => exact .status fun _ => readAlignedTree_framed
  | pretreeLens stage => exact .status fun _ => readPretree_framed
  | pretreeSym stage => exact .status fun _ => (decodeSymbol_framed .pre).bind pretreeSymbol_framed
  | element => exact .status fun c => (decodeElement_keeps (hstable c)).bind takeElement_framed
  | tail => exact finishChunk_status

/-- Run the instruction a reading answers; a fault of the reading is taken in the state before it. -/
def runFetched (s : State) : Res Instr → Outcome
  | .ok i t => exec i t
  | .raise k => .next (takeFault k s)
  | .stuck r => .fault r

theorem runFetched_congr (h : s.SameStatus t) (r : Res Instr) : runFetched t r = runFetched s r := by
  cases r with
  | ok i u => rfl
  | raise k => exact congrArg _ (h.takeFault k)
  | stuck q => rfl

/-- A step reads an instruction, runs it and moves; a fault leaves the core idle, where the move does nothing. -/
theorem step_eq_runFetched (hp : s.phase ≠ .idle) : step s = (runFetched s (fetch s)).andThen advance.run := by
  rw [step, if_neg hp]
  cases fetch s with
  | ok i t =>
    rw [stepFetched, runFetched]
    cases exec i t <;> rfl
  | raise k => rfl
  | stuck r => rfl

/-- What a pattern read decodes to has the meaning `n`. -/
theorem runFetched_decoded {f : Format} {w : Nat} {i : Instr} {n : Op Unit} (hd : decode f w = .ok i) (hi : exec i t = n.run t) :
    runFetched t (decoded f w t) = n.run t := by
  rw [decoded_of_decode hd]
  exact hi

/-- A field is read, and the instruction it decodes to is run. -/
theorem runFetched_bind {read : Op α} {f : α → Op Instr} {g : α → Op Unit} (hread : read.Keeps s.SameOutside)
    (h : ∀ w t, read s = .ok w t → runFetched t (f w t) = (g w).run t) : runFetched s ((read.bind f) s) = (read.bind g).run s := by
  cases hr : read s with
  | ok w t =>
    have hst : s.SameStatus t := (hread s w t (.refl s) hr).toSameStatus
    rw [Op.bind_of_ok hr, Op.bind_run_of_ok hr hst, ← h w t hr, runFetched_congr hst]
  | raise k =>
    rw [Op.bind_of_raise hr, Op.run_of_raise (Op.bind_of_raise hr)]
    rfl
  | stuck r =>
    rw [Op.bind_of_stuck hr, Op.run_of_stuck (Op.bind_of_stuck hr)]
    rfl

theorem runFetched_e8 {w : Nat} (hw : w < 2) : runFetched t (decoded .chunkPrefix w t) = (e8Flag w).run t := by
  refine runFetched_decoded (decode_chunkPrefix hw) ?_
  interval_cases w <;> rfl

theorem runFetched_header {tag : Nat} (htag : tag < 8) (size : BitVec 24) :
    runFetched t (decoded .blockHeader (headerWord tag size) t) = (blockHeader tag size).run t :=
  runFetched_decoded (decode_headerWord htag size) (exec_headerInstr htag size t)

theorem runFetched_rValues (r0 r1 r2 : Word32) :
    runFetched t (decoded .rValues (rValuesWord r0 r1 r2) t) = (setBlockOffsets r0 r1 r2).run t :=
  runFetched_decoded (decode_rValuesWord r0 r1 r2) rfl

/-- A pretree symbol, with the numbers that are none (R186). -/
theorem runFetched_pretree (sym : Nat) : runFetched t (decodedPretree sym t) = (pretreeSymbol sym).run t := by
  by_cases h : sym < 20
  · have hi : pretreeCtors[sym]? = some pretreeCtors[sym] := List.getElem?_eq_getElem h
    rw [decodedPretree, if_neg (by omega)]
    exact runFetched_decoded (decode_pretreeSymbol hi) (exec_pretreeCtors hi t)
  · rw [decodedPretree, if_pos (by omega), pretreeSymbol, if_neg (by omega), if_neg (by omega), if_neg (by omega), if_neg (by omega)]
    rfl

/-- The element of a main symbol, with the numbers that are none (R102, R104). -/
def mainElement (sym : Nat) : Op Element :=
  if sym ≤ 255 then Op.pure (.literal (BitVec.ofNat 8 sym)) else matchElement (symbolSlot sym) (symbolHeader sym).toNat

theorem decodeElement_uncompressed (h : s.blk.kind = .uncompressed) : decodeElement s = decodeUncompressed s := if_pos h

theorem decodeElement_coded (h : s.blk.kind ≠ .uncompressed) : decodeElement s = ((decodeSymbol .main).bind mainElement) s := if_neg h

theorem decode_mainSymbol_error {sym : Nat} (h : 1040 ≤ sym) : ∃ r, decode .mainSymbol sym = .error r := by
  unfold decode
  split
  · exact ⟨_, rfl⟩
  · exact mainInstr_error.2 h

theorem runFetched_main (sym : Nat) : runFetched t (decoded .mainSymbol sym t) = ((mainElement sym).bind takeElement).run t := by
  by_cases h256 : sym < 256
  · rw [mainElement, if_pos (by omega)]
    exact runFetched_decoded (decode_literal h256) rfl
  rw [mainElement, if_neg (by omega)]
  by_cases h98 : symbolSlot sym < 98
  · have hlt : symbolSlot sym < slotCtors.length := h98
    obtain ⟨ctor, hctor⟩ : ∃ ctor, slotCtors[symbolSlot sym]? = some ctor := ⟨_, List.getElem?_eq_getElem hlt⟩
    have hheader : BitVec.ofNat 3 sym = symbolHeader sym :=
      BitVec.eq_of_toNat_eq (by rw [symbolHeader, BitVec.toNat_ofNat, BitVec.toNat_ofNat]; omega)
    have hd := decode_match (Nat.not_lt.1 h256) hctor
    rw [hheader] at hd
    exact runFetched_decoded hd (exec_slotCtors hctor _ t)
  · have hstuck : matchElement (symbolSlot sym) (symbolHeader sym).toNat t = .stuck .noSuchSymbol := if_neg fun h => h98 h.2
    obtain ⟨r, hr⟩ := decode_mainSymbol_error (show 1040 ≤ sym by unfold symbolSlot at h98; omega)
    rw [decoded, hr, Op.run_of_stuck (Op.bind_of_stuck hstuck)]
    rfl

theorem runFetched_fetch (hp : s.phase ≠ .idle) : runFetched s (fetch s) = s.phase.part.run s := by
  unfold fetch
  cases hphase : s.phase with
  | idle => exact absurd hphase hp
  | padByte | alignPad | tail => rfl
  | e8 => exact runFetched_bind (readBits_framed 1) fun w t hr => runFetched_e8 (readBits_ok_lt hr)
  | header =>
    refine runFetched_bind readHeader_framed fun w t hr => runFetched_header ?_ w.2
    obtain ⟨tag, u, htag, hsize⟩ := Op.bind_ok_iff.1 hr
    obtain ⟨size, v, -, hw⟩ := Op.bind_ok_iff.1 hsize
    cases hw
    exact readBits_ok_lt htag
  | rValues => exact runFetched_bind readOffsetValues_framed fun v t _ => runFetched_rValues v.1 v.2.1 v.2.2
  | alignedLens =>
    exact runFetched_bind ((readFields_framed 3 nAlign).bind fun _ => Op.pure_keeps _) fun l t _ =>
      runFetched_decoded (n := setAlignedTree l) (decode_alignedLengths l) rfl
  | pretreeLens stage =>
    exact runFetched_bind ((readFields_framed 4 nPre).bind fun _ => Op.pure_keeps _) fun l t _ =>
      runFetched_decoded (n := setPretree l) (decode_pretreeLengths l) rfl
  | pretreeSym stage => exact runFetched_bind (decodeSymbol_framed .pre) fun sym t _ => runFetched_pretree sym
  | element =>
    by_cases hk : s.blk.kind = .uncompressed
    · simp only [if_pos hk]
      exact Op.run_congr (Op.bind_congr (decodeElement_uncompressed hk).symm)
    · have hpart : Phase.element.part s = ((decodeSymbol .main).bind fun sym => (mainElement sym).bind takeElement) s := by
        rw [Phase.part, Op.bind_congr (decodeElement_coded hk), Op.bind_assoc]
      simp only [if_neg hk]
      rw [Op.run_congr hpart]
      exact runFetched_bind (decodeSymbol_framed .main) fun sym t _ => runFetched_main sym

/-- A step of a running command does the part of the command at its place, then moves. -/
theorem step_eq_part (hp : s.phase ≠ .idle) : step s = (s.phase.part.andThen advance).run s := by
  rw [step_eq_runFetched hp, runFetched_fetch hp]
  cases hs : s.phase.part s with
  | ok _ t =>
    have hst : s.SameStatus t := s.phase.part_status s () t (State.SameOutside.refl s).toSameStatus hs
    rw [Op.run_of_ok hs, Op.andThen_run_of_ok hs hst]
    rfl
  | raise k =>
    rw [Op.run_of_raise hs, Op.run_of_raise (Op.andThen_of_raise hs)]
    rfl
  | stuck r =>
    rw [Op.run_of_stuck hs, Op.run_of_stuck (Op.andThen_of_stuck hs)]
    rfl

end

end Sys2Proof.Machine
end

section
/-! The steps of a chunk command refine its meaning (R188, R200, R201, R263; log 8, log 10): from each place of the command the steps come to what
is left of it there. -/

namespace Sys2Proof.Machine

section
variable {s t : State}

/-! ### Steps that lead to an outcome -/

/-- From the outcome `o` of a step, so many steps more come to `o'`. -/
def Leads (o o' : Outcome) : Prop := ∃ k, o.andThen (Host.Core.run Sys2Proof.core k) = o'

theorem Leads.refl (o : Outcome) : Leads o o := ⟨0, by cases o <;> rfl⟩

section
variable {M : Host.Core} {k : Nat} {a : M.State}

theorem core_run_of_next {b : M.State} (h : M.step a = .next b) : M.run (k + 1) a = M.run k b := by rw [Host.Core.run, h]

theorem core_run_of_fault {r : M.Fault} (h : M.step a = .fault r) : M.run (k + 1) a = .fault r := by rw [Host.Core.run, h]

theorem core_run_of_refused {r : M.Refusal} (h : M.step a = .refused r) : M.run (k + 1) a = .refused r := by rw [Host.Core.run, h]

end

theorem Leads.step {o : Outcome} (h : Leads (step s) o) : Leads (.next s) o := by
  obtain ⟨k, hk⟩ := h
  refine ⟨k + 1, ?_⟩
  cases hs : Machine.step s with
  | next t => rw [hs] at hk; exact (core_run_of_next (M := Sys2Proof.core) hs).trans hk
  | fault r => rw [hs] at hk; exact (core_run_of_fault (M := Sys2Proof.core) hs).trans hk
  | refused r => rw [hs] at hk; exact (core_run_of_refused (M := Sys2Proof.core) hs).trans hk

/-- Once `x` is done, the steps that follow come to what `m` gives. -/
def Op.LeadsTo (x m : Op Unit) (s : State) : Prop := Leads (x.run s) (m.run s)

/-- The steps from `s` come to what `m` gives there: `m` is what is left of the command. -/
def Comes (m : Op Unit) (s : State) : Prop := Leads (.next s) (m.run s)

theorem Op.LeadsTo.congr {x x' m m' : Op Unit} (h : x'.LeadsTo m' s) (hx : x s = x' s) (hm : m s = m' s) : x.LeadsTo m s := by
  rw [Op.LeadsTo, Op.run_congr hx, Op.run_congr hm]
  exact h

theorem Comes.congr {m m' : Op Unit} (h : Comes m' s) (hm : m s = m' s) : Comes m s := by
  rw [Comes, Op.run_congr hm]
  exact h

/-- The move and the rest of the command begin with the same operation. -/
theorem Op.LeadsTo.andThen {a x m : Op Unit} (ha : ∀ c : State, a.Keeps c.SameStatus) (h : ∀ u, a s = .ok () u → x.LeadsTo m u) :
    (a.andThen x).LeadsTo (a.andThen m) s := by
  cases hs : a s with
  | ok _ u =>
    have hst : s.SameStatus u := ha s s () u (State.SameOutside.refl s).toSameStatus hs
    rw [Op.LeadsTo, Op.andThen_run_of_ok hs hst, Op.andThen_run_of_ok hs hst]
    exact h u hs
  | raise k =>
    rw [Op.LeadsTo, Op.run_of_raise (Op.andThen_of_raise hs), Op.run_of_raise (Op.andThen_of_raise hs)]
    exact .refl _
  | stuck r =>
    rw [Op.LeadsTo, Op.run_of_stuck (Op.andThen_of_stuck hs), Op.run_of_stuck (Op.andThen_of_stuck hs)]
    exact .refl _

theorem Op.Blind.run {m : Op Unit} (hm : m.Blind) (s : State) (p : Phase) : m.run (s.setPhase p) = m.run s := by
  rw [Op.run, Op.run, hm]
  cases m s <;> rfl

/-- The move goes to a place from which the steps come to what is left. -/
theorem Op.LeadsTo.goTo {m : Op Unit} {q : Phase} (hm : m.Blind) (h : Comes m (s.setPhase q)) : (goTo q).LeadsTo m s := by
  rw [Op.LeadsTo, ← hm.run s q]
  exact h

/-- A step does the part of its place, and the move leads to the rest. -/
theorem Comes.step {p : Phase} {m : Op Unit} (hp : s.phase = p) (hne : p ≠ .idle) (h : ∀ u, p.part s = .ok () u → advance.LeadsTo m u) :
    Comes (p.part.andThen m) s := by
  subst hp
  refine Leads.step ?_
  rw [step_eq_part hne]
  exact Op.LeadsTo.andThen (fun _ => s.phase.part_status) h

/-! ### The move from each place (R200) -/

theorem advance_of_e8 (h : s.phase = .e8) : advance s = goTo s.loopPhase s := by rw [advance, h]
theorem advance_of_padByte (h : s.phase = .padByte) : advance s = goTo .header s := by rw [advance, h]
theorem advance_of_header (h : s.phase = .header) : advance s = goTo (bodyPhase s.hdr.kind) s := by rw [advance, h]
theorem advance_of_alignPad (h : s.phase = .alignPad) : advance s = goTo .rValues s := by rw [advance, h]
theorem advance_of_rValues (h : s.phase = .rValues) : advance s = endBody s := by rw [advance, h]
theorem advance_of_alignedLens (h : s.phase = .alignedLens) : advance s = goTo (.pretreeLens .literals) s := by rw [advance, h]
theorem advance_of_pretreeLens {stage : UpdateStage} (h : s.phase = .pretreeLens stage) : advance s =
    ((beginUpdate (stageTarget stage) (stageStart stage) (stageStop s.cfg.positionSlots stage)).andThen (afterSymbol stage)) s := by
  rw [advance, h]
theorem advance_of_pretreeSym {stage : UpdateStage} (h : s.phase = .pretreeSym stage) : advance s = afterSymbol stage s := by rw [advance, h]
theorem advance_of_element (h : s.phase = .element) : advance s = goTo s.loopPhase s := by rw [advance, h]
theorem advance_of_tail (h : s.phase = .tail) : advance s = goTo .idle s := by rw [advance, h]

/-! ### Parts that work apart from the place and the counts -/

theorem header_apart : Phase.header.part.Apart := fun _ hf => (readHeader_commutes hf).bind fun _ => blockHeader_commutes hf _ _
theorem rValues_apart : Phase.rValues.part.Apart := fun _ hf =>
  (readOffsetValues_commutes hf).bind fun _ => setBlockOffsets_commutes hf _ _ _
theorem pretreeSym_apart : ((decodeSymbol .pre).bind pretreeSymbol).Apart := fun _ hf =>
  (decodeSymbol_commutes hf .pre).bind (pretreeSymbol_commutes hf)
theorem commitBlock_apart : commitBlock.Apart := fun _ hf => commitBlock_commutes hf
theorem buildTable_apart (k : TableKind) : (buildTable k).Apart := fun _ hf => buildTable_commutes hf k
theorem readPretree_apart : readPretree.Apart := fun _ hf => readPretree_commutes hf
theorem readAlignedTree_apart : readAlignedTree.Apart := fun _ hf => readAlignedTree_commutes hf
theorem updateLoop_apart (n : Nat) : (updateLoop n).Apart := fun _ hf => updateLoop_commutes hf n
theorem updateStage_apart (stage : UpdateStage) : (updateStage stage).Apart := fun _ hf => updateStage_commutes hf stage
theorem readTables_apart : readTables.Apart := fun _ hf => readTables_commutes hf
theorem readBody_apart : readBody.Apart := fun _ hf => readBody_commutes hf
theorem readBlock_apart : readBlock.Apart := fun _ hf => readBlock_commutes hf

/-! ### The body of a block -/

section
variable {c : Command} {R : Op Unit} (hR : R.Blind) (hnext : ∀ u, u.phase = .element → u.cmd = c → Comes R u)
include hR hnext

/-- The block is committed, and its first element is next (R201). -/
theorem endBody_leads (hc : t.cmd = c) : endBody.LeadsTo (commitBlock.andThen R) t :=
  .andThen (fun _ => .status fun _ => commitBlock_framed) fun _ hu => .goTo hR (hnext _ rfl ((commitBlock_apart.cmd hu).trans hc))

theorem rValues_comes (hp : s.phase = .rValues) (hc : s.cmd = c) : Comes (Phase.rValues.part.andThen (commitBlock.andThen R)) s :=
  .step hp (by decide) fun _ hu => (endBody_leads hR hnext ((rValues_apart.cmd hu).trans hc)).congr
    (advance_of_rValues ((rValues_apart.placeless.phase hu).trans hp)) rfl

/-- The body of an Uncompressed block (R203). -/
theorem alignPad_comes (hp : s.phase = .alignPad) (hc : s.cmd = c) : Comes (readUncompressedBody.andThen (commitBlock.andThen R)) s := by
  have halign : align.Apart := fun _ hf => onReader_commutes hf _
  rw [readUncompressedBody, Op.andThen_assoc]
  refine .step hp (by decide) fun u hu => ?_
  refine Op.LeadsTo.congr (.goTo (rValues_apart.placeless.blind (commitBlock_apart.placeless.blind hR)) ?_)
    (advance_of_alignPad ((halign.placeless.phase hu).trans hp)) rfl
  exact rValues_comes hR hnext rfl ((halign.cmd hu).trans hc)

end

theorem tagKind_ne_none {tag : Nat} {kind : BlockKind} (h : tagKind tag = some kind) : kind ≠ .none := by
  rcases tag with _ | _ | _ | _ | tag <;> cases h <;> decide

/-- A header that is not refused is of one of the three kinds (R202). -/
theorem blockHeader_kind {tag : Nat} {size : BitVec 24} (h : blockHeader tag size s = .ok () t) : t.hdr.kind ≠ .none := by
  unfold blockHeader at h
  cases hk : tagKind tag with
  | some kind => rw [hk] at h; cases h; exact tagKind_ne_none hk
  | none => rw [hk] at h; cases h

theorem readBody_verbatim (h : s.hdr.kind = .verbatim) : readBody s = readTables s := by rw [readBody, h]

theorem readBody_aligned (h : s.hdr.kind = .aligned) : readBody s = (readAlignedTree.andThen readTables) s := by rw [readBody, h]

theorem readBody_uncompressed (h : s.hdr.kind = .uncompressed) : readBody s = readUncompressedBody s := by rw [readBody, h]

section
variable {c : Command} {D : Op Unit} {stage : UpdateStage} (hD : D.Blind)
  (hdone : ∀ t, ¬t.upd.pos < t.upd.stop → t.cmd = c → (afterSymbol stage).LeadsTo D t)
include hD hdone

/-- The symbols of a range update, one a step, come to its loop (R181): every pass moves the position on, so the loop's passes are enough. -/
theorem updateLoop_leads : ∀ (n : Nat) (t : State), t.upd.stop ≤ t.upd.pos + n → t.cmd = c →
    (afterSymbol stage).LeadsTo ((updateLoop n).andThen D) t := by
  intro n
  induction n with
  | zero => exact fun t hn hc => (hdone t (by omega) hc).congr rfl (Op.andThen_of_ok rfl)
  | succ n ih =>
    intro t hn hc
    by_cases hlt : t.upd.pos < t.upd.stop
    · have hloop : ((updateLoop (n + 1)).andThen D) t =
          (((decodeSymbol .pre).bind pretreeSymbol).andThen ((updateLoop n).andThen D)) t := by
        rw [← Op.andThen_assoc]
        exact Op.bind_congr (if_pos hlt)
      refine Op.LeadsTo.congr (.goTo (pretreeSym_apart.placeless.blind ((updateLoop_apart n).placeless.blind hD)) ?_)
        (show afterSymbol stage t = goTo (.pretreeSym stage) t from if_pos hlt) hloop
      refine Comes.step (p := .pretreeSym stage) rfl (by simp) fun u hu => ?_
      have hmore : u.upd.stop ≤ u.upd.pos + n := by
        obtain ⟨q, value, run, rfl, hrun, -⟩ := pretreePass_ok (s := t.setPhase (.pretreeSym stage)) hlt hu
        show t.upd.stop ≤ t.upd.pos + run + n
        omega
      exact (ih u hmore ((pretreeSym_apart.cmd hu).trans hc)).congr (advance_of_pretreeSym (pretreeSym_apart.placeless.phase hu)) rfl
    · have hloop : updateLoop (n + 1) t = .ok () t := if_neg hlt
      exact (hdone t hlt hc).congr rfl (Op.andThen_of_ok hloop)

/-- One range update of a block body (R180, R181, R188). -/
theorem pretreeLens_comes (hp : s.phase = .pretreeLens stage) (hc : s.cmd = c) : Comes ((updateStage stage).andThen D) s := by
  have hstage : ((updateStage stage).andThen D) s = (readPretree.andThen <|
      (beginUpdate (stageTarget stage) (stageStart stage) (stageStop s.cfg.positionSlots stage)).andThen <|
        (updateLoop (stageStop s.cfg.positionSlots stage - stageStart stage)).andThen D) s := by
    rw [← Op.andThen_assoc, ← Op.andThen_assoc, Op.andThen_assoc readPretree]
    rfl
  refine Comes.congr (Comes.step (p := .pretreeLens stage) hp (by simp) fun u hu => ?_) hstage
  have hcfg : u.cfg = s.cfg := ((Phase.pretreeLens stage).part_status s () u (State.SameOutside.refl s).toSameStatus hu).cfg
  have hadvance := advance_of_pretreeLens ((readPretree_apart.placeless.phase hu).trans hp)
  rw [hcfg] at hadvance
  refine Op.LeadsTo.congr (.andThen (fun _ => .status fun _ => Op.modify_keeps fun _ hs => hs.setUpd _) fun v hv => ?_) hadvance rfl
  cases hv
  have hpasses : stageStop s.cfg.positionSlots stage ≤ stageStart stage + (stageStop s.cfg.positionSlots stage - stageStart stage) := by omega
  exact updateLoop_leads hD hdone _ _ hpasses ((readPretree_apart.cmd hu).trans hc)

end

section
variable {c : Command} {R : Op Unit} (hR : R.Blind) (hnext : ∀ u, u.phase = .element → u.cmd = c → Comes R u)
include hR hnext

/-- The three range updates and the two tables of a body, then the commit (R188, R201). -/
theorem readTables_comes (hp : s.phase = .pretreeLens .literals) (hc : s.cmd = c) : Comes (readTables.andThen (commitBlock.andThen R)) s := by
  have hlen : ((buildTable .len).andThen (commitBlock.andThen R)).Blind :=
    (buildTable_apart .len).placeless.blind (commitBlock_apart.placeless.blind hR)
  have hlengths := (updateStage_apart .lengths).placeless.blind hlen
  have hmain := (buildTable_apart .main).placeless.blind hlengths
  have hmatches := (updateStage_apart .matches).placeless.blind hmain
  simp only [readTables, Op.andThen_assoc]
  refine pretreeLens_comes hmatches (fun t ht hc => ?_) hp hc
  refine Op.LeadsTo.congr (.goTo hmatches ?_) (show afterSymbol .literals t = goTo (.pretreeLens .matches) t from if_neg ht) rfl
  refine pretreeLens_comes hmain (fun t ht hc => ?_) rfl hc
  refine Op.LeadsTo.congr (.andThen (fun _ => .status fun _ => buildTable_framed .main) fun u hu => .goTo hlengths ?_)
    (show afterSymbol .matches t = ((buildTable .main).andThen (goTo (.pretreeLens .lengths))) t from if_neg ht) rfl
  refine pretreeLens_comes hlen (fun t ht hc => ?_) rfl (((buildTable_apart .main).cmd hu).trans hc)
  exact Op.LeadsTo.congr (.andThen (fun _ => .status fun _ => buildTable_framed .len) fun u hu =>
      endBody_leads hR hnext (((buildTable_apart .len).cmd hu).trans hc))
    (show afterSymbol .lengths t = ((buildTable .len).andThen endBody) t from if_neg ht) rfl

/-- The body of an Aligned block (R205). -/
theorem alignedLens_comes (hp : s.phase = .alignedLens) (hc : s.cmd = c) :
    Comes ((readAlignedTree.andThen readTables).andThen (commitBlock.andThen R)) s := by
  rw [Op.andThen_assoc]
  refine Comes.step (p := .alignedLens) hp (by decide) fun u hu => ?_
  refine Op.LeadsTo.congr (.goTo (readTables_apart.placeless.blind (commitBlock_apart.placeless.blind hR)) ?_)
    (advance_of_alignedLens ((readAlignedTree_apart.placeless.phase hu).trans hp)) rfl
  exact readTables_comes hR hnext rfl ((readAlignedTree_apart.cmd hu).trans hc)

/-- The body's own place by kind (R201). -/
theorem body_comes (hk : s.hdr.kind ≠ .none) (hc : s.cmd = c) :
    Comes (readBody.andThen (commitBlock.andThen R)) (s.setPhase (bodyPhase s.hdr.kind)) := by
  cases hkind : s.hdr.kind with
  | none => exact absurd hkind hk
  | verbatim =>
    exact (readTables_comes (s := s.setPhase (bodyPhase .verbatim)) hR hnext rfl hc).congr (Op.bind_congr (readBody_verbatim hkind))
  | aligned =>
    exact (alignedLens_comes (s := s.setPhase (bodyPhase .aligned)) hR hnext rfl hc).congr (Op.bind_congr (readBody_aligned hkind))
  | uncompressed =>
    exact (alignPad_comes (s := s.setPhase (bodyPhase .uncompressed)) hR hnext rfl hc).congr (Op.bind_congr (readBody_uncompressed hkind))

/-- A whole block, its header first (R201). -/
theorem header_comes (hp : s.phase = .header) (hc : s.cmd = c) : Comes (readBlock.andThen R) s := by
  rw [readBlock, Op.andThen_assoc, Op.andThen_assoc]
  refine Comes.step (p := .header) hp (by decide) fun u hu => ?_
  obtain ⟨h, v, -, hh⟩ := Op.bind_ok_iff.1 hu
  refine Op.LeadsTo.congr (.goTo (readBody_apart.placeless.blind (commitBlock_apart.placeless.blind hR)) ?_)
    (advance_of_header ((header_apart.placeless.phase hu).trans hp)) rfl
  exact body_comes hR hnext (blockHeader_kind hh) ((header_apart.cmd hu).trans hc)

/-- The start of a block: the pad byte where one is owed, then the header, where the block before owes nothing (R267). -/
theorem startBlock_comes (hmore : s.wantsMore = true) (hc : s.cmd = c) : Comes (startBlock.andThen R) (s.setPhase s.loopPhase) := by
  have hpadByte : skipPadByte.Apart := fun _ hf => skipPadByte_commutes hf
  by_cases hexhausted : s.blockExhausted = true
  · have hstart (p : Phase) : (startBlock.andThen R) (s.setPhase p) = (skipOwedPadByte.andThen (readBlock.andThen R)) (s.setPhase p) := by
      rw [← Op.andThen_assoc]
      exact Op.bind_congr (if_pos hexhausted)
    refine Comes.congr ?_ (hstart _)
    by_cases hpad : s.padOwed = true
    · rw [State.loopPhase, if_pos hmore, if_pos hexhausted, if_pos hpad]
      refine Comes.congr (Comes.step (p := .padByte) rfl (by decide) fun u hu => ?_) (Op.bind_congr (if_pos hpad))
      refine Op.LeadsTo.congr (.goTo (readBlock_apart.placeless.blind hR) ?_) (advance_of_padByte (hpadByte.placeless.phase hu)) rfl
      exact header_comes hR hnext rfl ((hpadByte.cmd hu).trans hc)
    · rw [State.loopPhase, if_pos hmore, if_pos hexhausted, if_neg hpad]
      exact (header_comes (s := s.setPhase .header) hR hnext rfl hc).congr (Op.andThen_of_ok (if_neg hpad))
  · rw [State.loopPhase, if_pos hmore, if_neg hexhausted]
    exact (hnext (s.setPhase .element) rfl hc).congr (Op.andThen_of_ok (if_neg hexhausted))

end

/-! ### The loop -/

/-- An element is no shorter than one byte (R207). -/
theorem decodeElement_length {e : Element} (h : decodeElement s = .ok e t) : 1 ≤ e.length := by
  unfold decodeElement at h
  split at h
  · obtain ⟨_, u, hc, hr⟩ := Op.andThen_ok_iff.1 h
    split at hr <;> cases hr
    exact Nat.one_le_iff_ne_zero.2 ‹_›
  · obtain ⟨sym, u, -, h⟩ := Op.bind_ok_iff.1 h
    split at h
    · cases h
      exact Nat.le_refl 1
    · unfold matchElement at h
      split at h
      · obtain ⟨length, v, hlen, h⟩ := Op.bind_ok_iff.1 h
        obtain ⟨_, w, hhdr, hlen⟩ := Op.andThen_ok_iff.1 hlen
        obtain ⟨r, n, rfl, hn⟩ := lengthHeader_ok hhdr
        cases hlen
        obtain ⟨_, w, -, h⟩ := Op.andThen_ok_iff.1 h
        cases h
        exact Nat.le_of_succ_le hn
      · cases h

theorem takeElement_placeless (e : Element) : (takeElement e).Placeless := fun p =>
  (applyElement_commutes (setPhase_aside p) e).andThen <|
    .ite (n := Op.modify fun s => (s.setBlk { s.blk with remaining := s.blk.remaining - e.length }).setCmd
      { s.cmd with produced := s.cmd.produced + e.length }) (fun _ => Iff.rfl) (Op.raise_commutes _) (Op.modify_commutes fun _ => rfl)

theorem element_placeless : (decodeElement.bind takeElement).Placeless := fun p =>
  (decodeElement_commutes (setPhase_aside p)).bind fun e => takeElement_placeless e p

/-- An element taken produces a byte or more of the same command (R269). -/
theorem element_produces (h : (decodeElement.bind takeElement) s = .ok () t) :
    t.cmd.outputSize = s.cmd.outputSize ∧ s.cmd.produced < t.cmd.produced := by
  have hapart : decodeElement.Apart := fun _ hf => decodeElement_commutes hf
  obtain ⟨e, u, hd, ht⟩ := Op.bind_ok_iff.1 h
  have hlen := decodeElement_length hd
  obtain ⟨-, r, w, rfl⟩ := takeElement_ok ht
  rw [State.setCmd_cmd, hapart.cmd hd]
  exact ⟨rfl, Nat.lt_add_of_pos_right hlen⟩

/-- What is left of a command at the loop's test (R263). -/
def loopRest (n : Nat) : Op Unit := (chunkLoop n).andThen (finishChunk.andThen (goTo .idle))

theorem finishChunk_placeless : finishChunk.Placeless := fun _ _ => rfl

theorem loopPass_placeless : loopPass.Placeless := fun p =>
  (startBlock_commutes (setPhase_aside p)).andThen (element_placeless p)

theorem chunkLoop_placeless : ∀ n : Nat, (chunkLoop n).Placeless
  | 0 => fun _ => Op.pure_commutes ()
  | n + 1 => fun p =>
    have hpass : (loopPass.andThen (chunkLoop n)).Commutes (State.setPhase · p) := (loopPass_placeless p).andThen (chunkLoop_placeless n p)
    hpass.ite (fun _ => Iff.rfl) (Op.pure_commutes ())

theorem loopRest_blind (n : Nat) : (loopRest n).Blind :=
  (chunkLoop_placeless n).blind (finishChunk_placeless.blind (goTo_blind .idle))

/-- The end of a chunk, in one step (R91, R270, R271). -/
theorem tail_comes (hp : s.phase = .tail) : Comes (finishChunk.andThen (goTo .idle)) s :=
  Comes.step (p := .tail) hp (by decide) fun _ hu => Op.LeadsTo.congr (.refl _) (advance_of_tail ((finishChunk_placeless.phase hu).trans hp)) rfl

/-- From the loop's test the steps come to the loop and the chunk's end: every pass produces a byte, so the loop's passes are enough (R266). -/
theorem loop_comes : ∀ (n : Nat) (s : State), s.cmd.outputSize ≤ s.cmd.produced + n → Comes (loopRest n) (s.setPhase s.loopPhase) := by
  have hdone (n : Nat) (s : State) (hmore : s.wantsMore = false) : Comes (loopRest n) (s.setPhase s.loopPhase) := by
    have hplace : s.loopPhase = .tail := by rw [State.loopPhase, hmore]; rfl
    rw [hplace]
    exact (tail_comes rfl).congr (Op.andThen_of_ok (chunkLoop_done (s := s.setPhase .tail) hmore n))
  intro n
  induction n with
  | zero => exact fun s hn => hdone 0 s (decide_eq_false (by omega))
  | succ n ih =>
    intro s hn
    by_cases hmore : s.wantsMore = true
    · have hpass : loopRest (n + 1) (s.setPhase s.loopPhase) =
          (startBlock.andThen ((decodeElement.bind takeElement).andThen (loopRest n))) (s.setPhase s.loopPhase) := by
        have hloop : chunkLoop (n + 1) (s.setPhase s.loopPhase) = (loopPass.andThen (chunkLoop n)) (s.setPhase s.loopPhase) := if_pos hmore
        have hrest : loopRest (n + 1) (s.setPhase s.loopPhase) =
          ((loopPass.andThen (chunkLoop n)).andThen (finishChunk.andThen (goTo .idle))) (s.setPhase s.loopPhase) := Op.bind_congr hloop
        rw [hrest, loopPass, Op.andThen_assoc, Op.andThen_assoc]
        rfl
      refine Comes.congr (startBlock_comes (c := s.cmd) (element_placeless.blind (loopRest_blind n)) (fun u hu hc => ?_) hmore rfl) hpass
      refine Comes.step (p := .element) hu (by decide) fun v hv => ?_
      obtain ⟨hsize, hproduced⟩ := element_produces hv
      refine Op.LeadsTo.congr (.goTo (loopRest_blind n) (ih v ?_)) (advance_of_element ((element_placeless.phase hv).trans hu)) rfl
      rw [hc] at hsize hproduced
      omega
    · exact hdone (n + 1) s (by simpa using hmore)

/-! ### The command -/

/-- From the command's first place the steps come to steps 2 to 5 of R263. -/
theorem first_comes {n : Nat} (hn : s.cmd.outputSize ≤ s.cmd.produced + n) : Comes (readE8.andThen (loopRest n)) (s.setPhase s.firstPhase) := by
  by_cases hfirst : s.firstChunk = true
  · have he8 : Phase.e8.part.Apart := fun _ hf => e8_commutes hf
    rw [State.firstPhase, if_pos hfirst]
    refine Comes.congr (Comes.step (p := .e8) rfl (by decide) fun u hu => ?_) (Op.bind_congr (if_pos hfirst))
    refine Op.LeadsTo.congr (.goTo (loopRest_blind n) (loop_comes n u ?_)) (advance_of_e8 (he8.placeless.phase hu)) rfl
    rw [he8.cmd hu]
    exact hn
  · rw [State.firstPhase, if_neg hfirst]
    have hlater : s.firstChunk = false := by simpa using hfirst
    exact (loop_comes n s hn).congr (Op.andThen_of_ok (readE8_later (s := s.setPhase s.loopPhase) hlater))

theorem readE8_placeless : readE8.Placeless := fun p => readE8_commutes (setPhase_aside p) fun _ => rfl

theorem chunkBody_placeless (n : Nat) : (chunkBody n).Placeless := fun p =>
  (readE8_placeless p).andThen ((chunkLoop_placeless n p).andThen (finishChunk_placeless p))

/-- In an idle core, going to the idle place changes nothing. -/
theorem Op.Placeless.andThen_goTo_idle {m : Op Unit} (hm : m.Placeless) (hp : s.phase = .idle) : (m.andThen (goTo .idle)) s = m s := by
  cases hs : m s with
  | ok _ t =>
    have ht : t.phase = .idle := (hm.phase hs).trans hp
    rw [Op.andThen_of_ok hs, ← ht]
    rfl
  | raise k => exact Op.bind_of_raise hs
  | stuck r => exact Op.bind_of_stuck hs

/-- A chunk command that the idle core has begun goes on to the outcome of its meaning (R263, R310). -/
theorem beginChunk_leads (data : List Byte) (n : Nat) (wantBytes : Bool) (s : State) :
    Leads (.next (beginChunk data n wantBytes s)) (runChunk data n wantBytes s) := by
  unfold beginChunk runChunk
  cases refusal? data.length n s with
  | some reason => exact .refl _
  | none =>
    generalize hstart : startChunk data n wantBytes s = t
    have hp : t.phase = .idle := by rw [← hstart]; rfl
    have hn : t.cmd.outputSize ≤ t.cmd.produced + n := by rw [← hstart]; exact Nat.le_add_left _ _
    have hbody : (chunkBody n).andThen (goTo .idle) = readE8.andThen (loopRest n) := by
      rw [chunkBody, loopRest, Op.andThen_assoc, Op.andThen_assoc]
    rw [← Op.run_congr ((chunkBody_placeless n).andThen_goTo_idle hp), hbody,
      ← (readE8_placeless.blind (loopRest_blind n)).run t t.firstPhase]
    exact first_comes hn

end

/-- Settles O8: a step does the part of the command at its place and moves; by induction on the passes, of a range update and of the loop,
the steps from each place come to what is left of the command there. -/
theorem stepsRunTheChunkCommand : Obligations.StepsRunTheChunkCommand := by
  intro s c rest hp hhost hc
  have hissue : step s = issue s := if_pos hp
  unfold issue at hissue
  rw [hhost] at hissue
  refine Leads.step (s := s) ?_
  rcases hc with ⟨data, n, rfl⟩ | ⟨data, n, rfl⟩
  · rw [hissue]
    exact beginChunk_leads data n false _
  · rw [hissue]
    exact beginChunk_leads data (outputSizeArg n) true _

end Sys2Proof.Machine
end

section
/-! Blocks (R201 to R206): the tag chooses the kind or faults, and the header's kind and size outlast the body, so that they are what the end
of the block judges and commits. -/

namespace Sys2Proof.Machine

/-! ### The tag (R202) -/

theorem tagKind_eq_none : ∀ {tag : Nat}, tag ∉ [1, 2, 3] → tagKind tag = none
  | 0, _ => rfl
  | 1, h => absurd (by decide) h
  | 2, h => absurd (by decide) h
  | 3, h => absurd (by decide) h
  | _ + 4, _ => rfl

theorem blockHeader_of_kind {tag : Nat} {kind : BlockKind} (h : tagKind tag = some kind) (size : BitVec 24) (s : State) :
    blockHeader tag size s = .ok () (s.setHdr ⟨kind, size.toNat⟩) := by
  rw [blockHeader, h]
  rfl

theorem blockHeader_of_no_kind {tag : Nat} (h : tag ∉ [1, 2, 3]) (size : BitVec 24) (s : State) :
    blockHeader tag size s = .raise (.invalidBlockType (BitVec.ofNat 4 tag)) := by
  rw [blockHeader, tagKind_eq_none h]
  rfl

/-- Settles O38: a header is its tag's dispatch, which faults on every tag that names no kind, before the body. -/
theorem tagDispatch : Obligations.TagDispatch := by
  intro s size
  refine ⟨rfl, rfl, rfl, fun i tag hmem => ?_, fun hbits htag => ?_⟩
  · have hrows : (i, tag) ∈ [0, 4, 5, 6, 7].map fun tag => (headerInstr tag size, tag) := hmem
    obtain ⟨tag', htags, heq⟩ := List.mem_map.1 hrows
    cases heq
    have hall : ∀ tag ∈ [0, 4, 5, 6, 7], tag < 8 ∧ tag ∉ [1, 2, 3] := by decide
    obtain ⟨h8, hnone⟩ := hall tag htags
    exact ⟨_, (exec_headerInstr h8 size s).trans (Op.run_of_raise (blockHeader_of_no_kind hnone size s)), rfl, rfl⟩
  · obtain ⟨q, hq, -⟩ := readHeader_of_le hbits
    have hfault : readBlock s = .raise _ := Op.bind_of_raise ((Op.bind_of_ok hq).trans (blockHeader_of_no_kind htag _ _))
    exact ⟨_, Op.run_of_raise hfault, rfl, rfl⟩

/-! ### The body leaves the header's kind and size (R201) -/

section
variable {s t u : State} {h : Header}

theorem readAlignedTree_ok (hread : readAlignedTree s = .ok () t) : ∃ q w, t = (s.setBr q).setTable .align w := by
  obtain ⟨l, u, hfield, hset⟩ := Op.bind_ok_iff.1 hread
  obtain ⟨q, rfl, -⟩ := taken_of_ok readAlignedField_of_le readAlignedField_of_lt hfield
  rw [setAlignedTree_apply] at hset
  obtain ⟨w, -, rfl⟩ := buildTable_ok hset
  exact ⟨q, w, State.setTable_setTable _ _ _ _⟩

theorem readUncompressedBody_ok (hread : readUncompressedBody s = .ok () t) : ∃ q b, t = (s.setBr q).setBlk b := by
  rw [readUncompressedBody_apply] at hread
  obtain ⟨v, u, hvalues, hset⟩ := Op.bind_ok_iff.1 hread
  obtain ⟨q, rfl, -⟩ := taken_of_ok readOffsetValues_of_le readOffsetValues_of_lt hvalues
  cases hset
  exact ⟨q, _, rfl⟩

theorem buildTable_keeps_hdr (k : TableKind) : (buildTable k).Keeps (·.hdr = h) := by
  intro s a t hs hbuild
  obtain ⟨w, -, rfl⟩ := buildTable_ok hbuild
  exact (State.setTable_hdr s k w).trans hs

theorem updateLoop_keeps_hdr : ∀ n : Nat, (updateLoop n).Keeps (·.hdr = h)
  | 0 => Op.pure_keeps ()
  | n + 1 => by
    intro s a t hs hloop
    by_cases hlt : s.upd.pos < s.upd.stop
    · obtain ⟨_, u, hpass, hrest⟩ := Op.andThen_ok_iff.1 ((if_pos hlt).symm.trans hloop)
      obtain ⟨q, value, run, rfl, -⟩ := pretreePass_ok hlt hpass
      exact updateLoop_keeps_hdr n _ a t ((State.writeRun_hdr (s.setBr q) value run).trans hs) hrest
    · cases (if_neg hlt).symm.trans hloop
      exact hs

theorem updateRange_keeps_hdr (target : LenArray) (start stop : Nat) : (updateRange target start stop).Keeps (·.hdr = h) := by
  have hpretree : readPretree.Keeps (·.hdr = h) := by
    intro s a t hs hread
    obtain ⟨q, w, rfl⟩ := readPretree_ok hread
    exact hs
  have hbegin : (beginUpdate target start stop).Keeps (·.hdr = h) := Op.modify_keeps fun _ hs => hs
  exact hpretree.andThen (hbegin.andThen (updateLoop_keeps_hdr _))

theorem updateStage_keeps_hdr (stage : UpdateStage) : (updateStage stage).Keeps (·.hdr = h) := fun s => updateRange_keeps_hdr _ _ _ s

theorem readTables_keeps_hdr : readTables.Keeps (·.hdr = h) :=
  (updateStage_keeps_hdr .literals).andThen <| (updateStage_keeps_hdr .matches).andThen <| (buildTable_keeps_hdr .main).andThen <|
    (updateStage_keeps_hdr .lengths).andThen (buildTable_keeps_hdr .len)

theorem readBody_keeps_hdr : readBody.Keeps (·.hdr = h) := by
  intro s a t hs hbody
  cases hkind : s.hdr.kind with
  | none =>
    rw [readBody, hkind] at hbody
    cases hbody
    exact hs
  | verbatim => exact readTables_keeps_hdr s a t hs ((readBody_verbatim hkind).symm.trans hbody)
  | aligned =>
    obtain ⟨_, u, htree, htables⟩ := Op.andThen_ok_iff.1 ((readBody_aligned hkind).symm.trans hbody)
    obtain ⟨q, w, rfl⟩ := readAlignedTree_ok htree
    exact readTables_keeps_hdr ((s.setBr q).setTable .align w) a t hs htables
  | uncompressed =>
    obtain ⟨q, b, rfl⟩ := readUncompressedBody_ok ((readBody_uncompressed hkind).symm.trans hbody)
    exact hs

/-! ### The whole block (R201, R206) -/

/-- A block whose body completes is judged by its header's size, then committed (R201, R206). -/
theorem exec_readBlock_of_body {tag : Nat} {size : BitVec 24} {kind : BlockKind} (hread : readHeader s = .ok (tag, size) u)
    (hkind : tagKind tag = some kind) (hbody : readBody (u.setHdr ⟨kind, size.toNat⟩) = .ok () t) :
    (size ≠ 0 → exec .readBlock s = .next (t.setBlk { t.blk with kind := kind, size := size.toNat, remaining := size.toNat })) ∧
      (size = 0 → Faults .readBlock s .zeroSizeBlock) := by
  have hhdr : t.hdr = ⟨kind, size.toNat⟩ := readBody_keeps_hdr _ () t rfl hbody
  have hblock : readBlock s = commitBlock t :=
    (Op.andThen_of_ok ((Op.bind_of_ok hread).trans (blockHeader_of_kind hkind size u))).trans (Op.andThen_of_ok hbody)
  have hzero : t.hdr.size = 0 ↔ size = 0 := by rw [hhdr, ← BitVec.toNat_inj]; rfl
  refine ⟨fun hsize => ?_, fun hsize => Op.run_of_raise (hblock.trans (if_pos (hzero.2 hsize)))⟩
  have hcommit : commitBlock t = _ := if_neg (mt hzero.1 hsize)
  rw [hhdr] at hcommit
  exact Op.run_of_ok (hblock.trans hcommit)

end

/-- Settles O39: the body of each kind is the one `readBody` runs after its header, and completes it. -/
theorem readBlockHeaderBodyCommit : Obligations.ReadBlockHeaderBodyCommit := by
  refine fun s u t tag size hread => ⟨?_, ?_, ?_⟩
  · rintro rfl htables
    exact exec_readBlock_of_body hread rfl (Op.ok_of_run (m := readTables) htables.1 htables.2)
  · rintro v rfl htree htables
    have hbody : (readAlignedTree.andThen readTables) (u.setHdr ⟨.aligned, size.toNat⟩) = .ok () t :=
      (Op.andThen_of_ok (Op.ok_of_run htree.1 htree.2)).trans (Op.ok_of_run htables.1 htables.2)
    exact exec_readBlock_of_body hread rfl hbody
  · rintro rfl hbody
    exact exec_readBlock_of_body hread rfl (Op.ok_of_run (m := readUncompressedBody) hbody.1 hbody.2)

end Sys2Proof.Machine
end

section
/-! Elements (R207 to R219, R268, R269): the length rows and the cached offsets, what a literal, a match and the raw bytes of a block do to
the window, and which of them the block's kind gives. -/

namespace Sys2Proof.Machine

section
variable {s u : State} {lh : BitVec 3} {n : Nat}

/-! ### Match length (R210) -/

/-- The length header rows, in order (R103). -/
theorem exec_lenHdrCtors {lh : Nat} {i : Instr} (h : lenHdrCtors[lh]? = some i) (s : State) : exec i s = (lengthHeader lh).run s := by
  have hall : lenHdrCtors.map exec = (List.range 8).map fun lh => (lengthHeader lh).run := rfl
  have hlt : lh < 8 := (List.getElem?_eq_some_iff.1 h).1
  have hget := congrArg (·[lh]?) hall
  simp only [List.getElem?_map, h, List.getElem?_range hlt, Option.map_some, Option.some.injEq] at hget
  exact congrFun hget s

/-- The length that a header and the stream give is kept by the header's row, and kept and returned by `matchLength` (R210). -/
theorem exec_length_of_reads {i : Instr} (hi : lenHdrCtors[lh.toNat]? = some i) (h : LengthReads lh s n u) :
    exec i s = .next (u.setElt { s.elt with length := n }) ∧
      exec (.matchLength lh) s = .next ((u.setElt { s.elt with length := n }).setRet (.num n)) := by
  have hheader := lengthHeader_of_reads h
  have hlength := matchLength_of_reads h
  obtain ⟨r, rfl⟩ := h.eq_setBr
  exact ⟨(exec_lenHdrCtors hi s).trans (Op.run_of_ok hheader), Op.runRet_of_ok hlength⟩

theorem lengthHeader_absent (h : s.len.present = false) : lengthHeader 7 s = .raise (.corruptTable .absentLengthTree) :=
  Op.bind_of_raise (decodeSymbol_absent (k := .len) h)

end

/-- Settles O41: below 7 the header is the length, at 7 a symbol of the length tree is, which has 249. -/
theorem matchLengthRule : Obligations.MatchLengthRule := by
  refine ⟨fun s lh i hi => ⟨fun hlt => exec_length_of_reads hi (.inl ⟨hlt, rfl, rfl⟩), fun h7 t u hd => ?_, fun h7 habsent => ?_⟩,
    fun s t ht => if_pos ht⟩
  · obtain ⟨hrow, hlength⟩ := exec_length_of_reads hi (.inr ⟨h7, t, hd, rfl⟩)
    refine ⟨hrow, hlength, fun hfilled h249 => ?_⟩
    obtain ⟨-, hmem, -⟩ := decodeSymbol_ok hd
    have hsym : t < s.len.lens.length := hfilled.entry t hmem
    omega
  · have hfault : lengthHeader lh.toNat s = _ := h7 ▸ lengthHeader_absent habsent
    exact ⟨(exec_lenHdrCtors hi s).trans (Op.run_of_raise hfault), Op.runRet_of_raise (Op.bind_of_raise hfault)⟩

/-- Settles O42: each operation writes the cache and the offset it returns; slot 0 then returns what slot 1 has put into `REP0`. -/
theorem cachedOffsetsSwap : Obligations.CachedOffsetsSwap :=
  fun s => ⟨Op.runRet_of_ok (Op.andThen_of_ok (matchOffset0_eq s)), Op.runRet_of_ok (Op.andThen_of_ok (matchOffset1_eq s)),
    Op.runRet_of_ok (Op.andThen_of_ok (matchOffset2_eq s)), _, _, Op.runRet_of_ok (Op.andThen_of_ok (matchOffset1_eq s)),
    Op.runRet_of_ok (Op.andThen_of_ok (matchOffset0_eq _)), rfl, rfl, rfl⟩

/-! ### Elements taken (R268, R269) -/

section
variable {s t : State} {e : Element}

/-- An element that is applied and no longer than what the block owes is taken (R269). -/
theorem takeElement_of_le (happly : applyElement e s = .ok () t) (h : e.length ≤ t.blk.remaining) : takeElement e s =
    .ok () ((t.setBlk { t.blk with remaining := t.blk.remaining - e.length }).setCmd { t.cmd with produced := t.cmd.produced + e.length }) :=
  (Op.andThen_of_ok happly).trans (account_of_le h)

end

/-- Settles O45: a literal is one push and 1 taken from the block. -/
theorem literalElement : Obligations.LiteralElement := by
  intro s b hw h1
  refine ⟨s.win.push s.cfg.windowSize b, Op.run_of_ok (takeElement_of_le (e := .literal b) rfl h1), rfl, fun a => ?_⟩
  split
  · next h => rw [h]; exact memRead_memWrite_same hw.canonical
  · next h => exact memRead_memWrite_other (Ne.symm h)

/-- The addresses a copy does not write to keep their bytes (R241). -/
theorem Window.memRead_copy {w : Window} {size n a : Nat} (offset : Nat) (hp : w.pos < size) (ha : ¬w.writes size n a) :
    memRead (w.copy size offset n).cells a = memRead w.cells a := by
  obtain ⟨bs, rfl, hcopy⟩ := Window.copy_eq_pushAll offset n w
  rw [hcopy, Window.memRead_pushAll hp ha]

theorem Window.copy_pos {w : Window} {size : Nat} (offset n : Nat) (hp : w.pos < size) : (w.copy size offset n).pos = (w.pos + n) % size := by
  obtain ⟨bs, rfl, hcopy⟩ := Window.copy_eq_pushAll offset n w
  rw [hcopy, Window.pushAll_pos hp]

/-- Settles O46: the length and the offset read make the element, which copies inside the window. -/
theorem matchElements : Obligations.MatchElements := by
  intro s u v slot n lh ctor off hctor hslot hw hlen hoff h1 hsize hle
  have h98 : slot < 98 := (List.getElem?_eq_some_iff.1 hctor).1
  obtain ⟨e, he, helen, heoff⟩ := matchElement_of_reads hslot h98 hlen hoff
  obtain ⟨r, rfl⟩ := hlen.eq_setBr
  obtain ⟨r', c, rfl⟩ := hoff.eq_setBr_setRep
  have htake := takeElement_of_le (e := .matched off n) (copyFromSelf_ok (s := (((s.setBr r).setBr r').setRep c).setElt e) h1 hsize) hle
  exact ⟨s.win.copy s.cfg.windowSize off.toNat n, e, (exec_slotCtors hctor lh s).trans (Op.run_of_ok ((Op.bind_of_ok he).trans htake)),
    helen, heoff, Window.copy_pos _ _ hw.position, fun a => Window.memRead_copy _ hw.position,
    fun k => Window.history_copy h1 hsize hw⟩

/-! ### Raw bytes (R208) -/

section
variable {s : State} {n : Nat} (hn : n = min s.blk.remaining (s.br.len - s.br.bytePos))
include hn

theorem decodeUncompressed_of_pos (h1 : 1 ≤ n) : decodeUncompressed s = .ok (.bulkRead n) (s.setRep ⟨s.blk.r0, s.blk.r1, s.blk.r2⟩) := by
  subst hn
  exact if_neg (Nat.one_le_iff_ne_zero.1 h1)

theorem decodeUncompressed_of_zero (h0 : n = 0) : decodeUncompressed s = .raise .internalInvariant := if_pos (hn.symm.trans h0)

end

/-- Settles O48: the bulk read is no longer than the block's debt and the input left, so all of it is copied. -/
theorem rawBytesElement : Obligations.RawBytesElement := by
  refine fun s n hw hn => ⟨fun h1 => ?_, fun h0 => Op.run_of_raise (Op.bind_of_raise (decodeUncompressed_of_zero hn h0))⟩
  have hinput : s.br.bytePos + n ≤ s.br.len := by omega
  have hcopy := copyFromBitstream_ok (s := s.setRep ⟨s.blk.r0, s.blk.r1, s.blk.r2⟩) hinput
  have htake := takeElement_of_le (e := .bulkRead n) hcopy (hn.trans_le (Nat.min_le_left _ _))
  refine ⟨s.win.pushAll s.cfg.windowSize ((List.range n).map fun j => s.br.byteAt (s.br.bytePos + j)),
    Op.run_of_ok ((Op.bind_of_ok (decodeUncompressed_of_pos hn h1)).trans htake), ?_, fun a ha => ?_, fun k hk1 hk => ?_⟩
  · rw [Window.pushAll_pos hw.position, List.length_map, List.length_range]
  · exact Window.memRead_pushAll hw.position (by rwa [List.length_map, List.length_range])
  · exact Window.history_pushAll_range n (fun j => s.br.byteAt (s.br.bytePos + j)) hw hk1 hk

/-! ### Which element comes (R207, R209) -/

section
variable {s t u v : State} {sym n : Nat} {off : Word32}

theorem decodeCoded_literal (hd : decodeSymbol .main s = .ok sym u) (h : sym ≤ 255) :
    decodeCoded s = .ok (.literal (BitVec.ofNat 8 sym)) u := by
  rw [decodeCoded, Op.bind_of_ok hd, if_pos h]
  rfl

theorem symbolHeader_eq (h : 256 ≤ sym) : symbolHeader sym = BitVec.ofNat 3 (sym % 8) := by
  apply BitVec.eq_of_toNat_eq
  rw [symbolHeader, BitVec.toNat_ofNat, BitVec.toNat_ofNat]
  omega

/-- A main symbol above 255 is the match of its slot and header (R209). -/
theorem decodeCoded_match (hd : decodeSymbol .main s = .ok sym u) (h256 : 256 ≤ sym) (hslot : (sym - 256) / 8 < s.cfg.positionSlots)
    (h1040 : sym < 1040) (hlen : LengthReads (BitVec.ofNat 3 (sym % 8)) u n t) (hoff : OffsetReads ((sym - 256) / 8) t off v) :
    ∃ e, decodeCoded s = .ok (.matched off n) (v.setElt e) := by
  have hcfg : u.cfg = s.cfg := (decodeSymbol_framed .main s sym u (.refl s) hd).cfg
  rw [← hcfg] at hslot
  rw [← symbolHeader_eq h256] at hlen
  obtain ⟨e, he, -, -⟩ := matchElement_of_reads hslot (by omega) hlen hoff
  refine ⟨e, ?_⟩
  rw [decodeCoded, Op.bind_of_ok hd, if_neg (by omega)]
  exact he

/-- An element operation as an instruction, where it stands for the operation that the block's kind gives (R207). -/
theorem exec_element {m : Op Element} {i direct : Instr} {p : Prop} (hdirect : exec direct s = m.runRet .element s)
    (hm : p → decodeElement s = m s) (hi : i = direct ∨ (i = .decodeElement ∧ p ∧ 0 < s.blk.remaining)) :
    exec i s = m.runRet .element s := by
  rcases hi with rfl | ⟨rfl, hp, h0⟩
  · exact hdirect
  · exact (if_pos h0).trans (Op.run_congr (Op.bind_congr (hm hp)))

end

/-- Settles O49: by the block's kind, then by the main symbol or by the bytes left. -/
theorem decodeElementByKind : Obligations.DecodeElementByKind := by
  refine ⟨fun s u sym i hi hd => ?_, fun s n i hi hn => ?_⟩
  · have hexec : exec i s = decodeCoded.runRet .element s := exec_element rfl (fun hkind => if_neg hkind) hi
    refine ⟨fun h255 => hexec.trans (Op.runRet_of_ok (decodeCoded_literal hd h255)), fun t v n off h256 hslot h1040 hlen hoff => ?_⟩
    obtain ⟨e, he⟩ := decodeCoded_match hd h256 hslot h1040 hlen hoff
    exact ⟨e, hexec.trans (Op.runRet_of_ok he)⟩
  · have hexec : exec i s = decodeUncompressed.runRet .element s := exec_element rfl (fun hkind => if_pos hkind) hi
    exact ⟨fun h1 => hexec.trans (Op.runRet_of_ok (decodeUncompressed_of_pos hn h1)),
      fun h0 => hexec.trans (Op.runRet_of_raise (decodeUncompressed_of_zero hn h0))⟩

end Sys2Proof.Machine
end

section
/-! Window operations as instructions (R240 to R242): a push and a copy from the window itself, by the laws of their effect on the history. -/

namespace Sys2Proof.Machine

/-- Settles O50: the instruction is the window's push, which writes one address and shifts the history. -/
theorem pushShiftsHistory : Obligations.PushShiftsHistory := by
  intro s b hw
  have hsize : 1 ≤ s.cfg.windowSize := Nat.one_le_of_lt hw.position
  refine ⟨s.win.push s.cfg.windowSize b, rfl, rfl, memRead_memWrite_same hw.canonical, fun a ha => memRead_memWrite_other (Ne.symm ha),
    ?_, fun k h1 hk => ?_⟩
  · rw [Window.history_push hw (Nat.le_refl 1) hsize, if_pos rfl]
  · rw [Window.history_push hw (Nat.le_add_left 1 k) hk, if_neg (by omega), Nat.add_sub_cancel]

/-! ### Offsets outside the window (R242) -/

theorem copyFromSelf_of_zero {offset length : Nat} {s : State} (h : offset = 0) : copyFromSelf offset length s = .raise .windowRangeZero := by
  rw [copyFromSelf, if_pos (by omega)]

theorem copyFromSelf_of_above {offset length : Nat} {s : State} (h : s.cfg.windowSize < offset) :
    copyFromSelf offset length s = .raise .windowRangeAbove := by
  rw [copyFromSelf, if_neg (by omega), if_pos h]

/-- Settles O51: inside the window an offset makes a periodic copy, and outside it the operation faults on the range. -/
theorem copyFromSelfIsForward : Obligations.CopyFromSelfIsForward := by
  intro s offset n hw
  refine ⟨fun h1 ho => ?_, fun h0 => ?_, fun habove => ?_⟩
  · exact ⟨s.win.copy s.cfg.windowSize offset n, Op.run_of_ok (copyFromSelf_ok h1 ho), Window.copy_pos offset n hw.position,
      fun a => Window.memRead_copy offset hw.position, fun k => Window.history_copy h1 ho hw⟩
  · exact Op.run_of_raise (copyFromSelf_of_zero h0)
  · exact Op.run_of_raise (copyFromSelf_of_above habove)

end Sys2Proof.Machine
end

section
/-! Host commands (R260 to R276, R310): what the idle core answers to each, when it refuses a chunk command and where it starts one. -/

namespace Sys2Proof.Machine

section
variable {s : State} {data : List Byte} {n : Nat}

/-! ### Refusals, in the order of R263 -/

theorem refusal?_of_unconstructed (hc : s.constructed = false) (len n : Nat) : refusal? len n s = some .notConstructed := by
  rw [refusal?, hc]
  rfl

theorem refusal?_of_faulted (hc : s.constructed = true) (hf : s.fault.flag = true) (len n : Nat) : refusal? len n s = some .faulted := by
  rw [refusal?, hc, State.faulted, hf]
  rfl

theorem refusal?_of_large_output (h : s.Live) (hout : Config.outputMax < n) (len : Nat) : refusal? len n s = some .outputSizeRange := by
  rw [refusal?, h.1, State.faulted, h.2]
  exact if_pos hout

theorem refusal?_of_large_input {len : Nat} (h : s.Live) (hout : n ≤ Config.outputMax) (hlen : Config.inMaxBytes < len) :
    refusal? len n s = some .inputLengthRange := by
  rw [refusal?, h.1, State.faulted, h.2]
  exact (if_neg (Nat.not_lt.2 hout)).trans (if_pos hlen)

/-- The waiting commands do not bear on a refusal (R263). -/
theorem refusal?_withHost (len n : Nat) (s : State) (rest : List HostCommand) : refusal? len n { s with host := rest } = refusal? len n s := rfl

theorem runChunk_of_refusal {r : RefusalReason} (h : refusal? data.length n s = some r) (wantBytes : Bool) :
    runChunk data n wantBytes s = .next (s.setResult (.refused r)) := by rw [runChunk, h]

theorem beginChunk_of_refusal {r : RefusalReason} (h : refusal? data.length n s = some r) (wantBytes : Bool) :
    beginChunk data n wantBytes s = s.setResult (.refused r) := by rw [beginChunk, h]

theorem beginChunk_of_accepted (h : refusal? data.length n s = none) (wantBytes : Bool) : beginChunk data n wantBytes s =
    (startChunk data n wantBytes s).setPhase (startChunk data n wantBytes s).firstPhase := by rw [beginChunk, h]

/-! ### The first place of a chunk command (R263, R265 to R267) -/

theorem State.padOwed_iff : s.padOwed = true ↔ s.blk.kind = .uncompressed ∧ s.blk.size % 2 = 1 := by simp [State.padOwed]

theorem State.blockExhausted_iff : s.blockExhausted = true ↔ s.blk.remaining = 0 := beq_iff_eq

theorem State.wantsMore_iff : s.wantsMore = true ↔ s.cmd.produced < s.cmd.outputSize := decide_eq_true_iff

theorem State.firstChunk_iff : s.firstChunk = true ↔ s.decodedChunks = 0 := beq_iff_eq

theorem State.loopPhase_done (h : ¬s.cmd.produced < s.cmd.outputSize) : s.loopPhase = .tail := if_neg (State.wantsMore_iff.not.2 h)

theorem State.loopPhase_in_block (h : s.cmd.produced < s.cmd.outputSize) (hblk : s.blk.remaining ≠ 0) : s.loopPhase = .element := by
  rw [State.loopPhase, if_pos (State.wantsMore_iff.2 h), if_neg (State.blockExhausted_iff.not.2 hblk)]

theorem State.loopPhase_new_block (h : s.cmd.produced < s.cmd.outputSize) (hblk : s.blk.remaining = 0)
    (hpad : ¬(s.blk.kind = .uncompressed ∧ s.blk.size % 2 = 1)) : s.loopPhase = .header := by
  rw [State.loopPhase, if_pos (State.wantsMore_iff.2 h), if_pos (State.blockExhausted_iff.2 hblk), if_neg (State.padOwed_iff.not.2 hpad)]

theorem State.loopPhase_pad_owed (h : s.cmd.produced < s.cmd.outputSize) (hblk : s.blk.remaining = 0)
    (hpad : s.blk.kind = .uncompressed ∧ s.blk.size % 2 = 1) : s.loopPhase = .padByte := by
  rw [State.loopPhase, if_pos (State.wantsMore_iff.2 h), if_pos (State.blockExhausted_iff.2 hblk), if_pos (State.padOwed_iff.2 hpad)]

theorem State.firstPhase_first (h : s.decodedChunks = 0) : s.firstPhase = .e8 := if_pos (State.firstChunk_iff.2 h)

theorem State.firstPhase_later (h : s.decodedChunks ≠ 0) : s.firstPhase = s.loopPhase := if_neg (State.firstChunk_iff.not.2 h)

/-! ### The idle core's step -/

theorem step_idle (hp : s.phase = .idle) : step s = issue s := if_pos hp

theorem step_waits (hp : s.phase = .idle) (hh : s.host = []) : step s = .next s := by rw [step_idle hp, issue, hh]

theorem step_construct {w : Nat} {rest : List HostCommand} (hp : s.phase = .idle) (hh : s.host = .construct w :: rest) :
    step s = exec (.construct w) { s with host := rest } := by
  rw [step_idle hp, issue, hh]
  rfl

theorem step_reset {rest : List HostCommand} (hp : s.phase = .idle) (hh : s.host = .reset :: rest) :
    step s = exec .reset { s with host := rest } := by
  rw [step_idle hp, issue, hh]
  rfl

theorem step_chunkCommand {c : HostCommand} {rest : List HostCommand} (hp : s.phase = .idle) (hh : s.host = c :: rest)
    (hc : c = .decompressChunkInto data n ∨ ∃ m, c = .decompressChunk data m ∧ n = outputSizeArg m) :
    ∃ wantBytes, step s = .next (beginChunk data n wantBytes { s with host := rest }) := by
  rw [step_idle hp, issue, hh]
  rcases hc with rfl | ⟨m, rfl, rfl⟩
  · exact ⟨false, rfl⟩
  · exact ⟨true, rfl⟩

/-- Taking the command from the queue is no part of its refusal (R310). -/
theorem step_of_refusal {c : HostCommand} {rest : List HostCommand} {r : RefusalReason} (hp : s.phase = .idle) (hh : s.host = c :: rest)
    (hc : c = .decompressChunkInto data n ∨ ∃ m, c = .decompressChunk data m ∧ n = outputSizeArg m)
    (hr : refusal? data.length n s = some r) : step s = .next (State.setResult { s with host := rest } (.refused r)) := by
  obtain ⟨wantBytes, hstep⟩ := step_chunkCommand hp hh hc
  rwa [beginChunk_of_refusal ((refusal?_withHost _ _ s rest).trans hr)] at hstep

end

/-- Settles O7: the step is the host's first command; a chunk command that is not refused begins at its first place, which the chunk count
and the block's end choose. -/
theorem idleCoreTakesHostCommands : Obligations.IdleCoreTakesHostCommands := by
  intro s hp
  refine ⟨step_waits hp, fun w rest => step_construct hp, fun rest => step_reset hp, fun c rest data n hh hc => ?_⟩
  refine ⟨fun r hr => step_of_refusal hp hh hc hr, fun hr => ?_⟩
  obtain ⟨wantBytes, hstep⟩ := step_chunkCommand hp hh hc
  rw [beginChunk_of_accepted ((refusal?_withHost _ _ s rest).trans hr)] at hstep
  refine ⟨_, hstep, rfl, rfl, rfl, fun hfirst => ?_, fun hlater h0 hend hpad => ?_, fun hlater h0 hend hpad => ?_,
    fun hlater h0 hin => ?_, fun hlater hn => ?_⟩
  · exact State.firstPhase_first hfirst
  all_goals refine (State.firstPhase_later (s := startChunk data n wantBytes { s with host := rest }) hlater).trans ?_
  · exact State.loopPhase_new_block h0 hend hpad
  · exact State.loopPhase_pad_owed h0 hend hpad
  · exact State.loopPhase_in_block h0 hin
  · exact State.loopPhase_done (Nat.not_lt.2 (Nat.le_of_eq hn))

/-- Settles O15: with no `reset` and no `construct` first in the queue, the queue is empty or begins with a chunk command, which a FAULTED
core refuses. -/
theorem faultedUntilReset : Obligations.FaultedUntilReset := by
  intro s hp hf hreset hconstruct
  have hrefusal (len n : Nat) : refusal? len n s = some (if s.constructed then .faulted else .notConstructed) := by
    cases hc : s.constructed with
    | false => exact refusal?_of_unconstructed hc len n
    | true => exact refusal?_of_faulted hc hf len n
  cases hh : s.host with
  | nil => exact .inl (step_waits hp hh)
  | cons c rest =>
    cases c with
    | construct w => exact absurd hh (hconstruct w rest)
    | reset => exact absurd hh (hreset rest)
    | decompressChunkInto data n => exact .inr ⟨_, rest, _, rfl, step_of_refusal hp hh (.inl rfl) (hrefusal _ _), rfl⟩
    | decompressChunk data m => exact .inr ⟨_, rest, _, rfl, step_of_refusal hp hh (.inr ⟨m, rfl, rfl⟩) (hrefusal _ _), rfl⟩

/-! ### The codes of R300, and the E8 flag (R265, R306) -/

theorem FaultKind.code_eq_six {k : FaultKind} (h : k.code = 6) : k = .unsupportedE8 := by
  cases k
  case unsupportedE8 => rfl
  all_goals exact absurd h (by simp [FaultKind.code])

theorem FaultKind.code_ne_ten (k : FaultKind) : k.code ≠ 10 := by
  cases k <;> simp [FaultKind.code]

/-- Settles O54: the test of the flag passes on 0 and raises on 1. -/
theorem e8FlagRule : Obligations.E8Flag := fun s =>
  ⟨Op.run_of_ok (m := e8Flag 0) rfl, ⟨takeFault .unsupportedE8 s, Op.run_of_raise (m := e8Flag 1) rfl, rfl, takeFault_fault _ s⟩,
    fun _ => FaultKind.code_eq_six⟩

/-! ### Host commands as instructions -/

theorem exec_chunkCommand {data : List Byte} {n : Nat} {i : Instr} (hi : i = .decompressChunkInto data n ∨ i = .decompressChunk data (some n))
    (s : State) : ∃ wantBytes, exec i s = runChunk data n wantBytes s := by
  rcases hi with rfl | rfl
  · exact ⟨false, rfl⟩
  · exact ⟨true, rfl⟩

theorem exec_reset_of_unconstructed {s : State} (hc : s.constructed = false) : exec .reset s = .next (s.setResult (.refused .notConstructed)) :=
  if_neg (by rw [hc]; decide)

/-- Settles O58: each clause is one refusal of R263, which a chunk command answers with before it starts. -/
theorem refusalsChangeNothing : Obligations.RefusalsChangeNothing := by
  refine ⟨fun s data n i hi => ?_, rfl, FaultKind.code_ne_ten⟩
  have hrefused {r : RefusalReason} (h : refusal? data.length n s = some r) : exec i s = .next (s.setResult (.refused r)) := by
    obtain ⟨wantBytes, hexec⟩ := exec_chunkCommand hi s
    exact hexec.trans (runChunk_of_refusal h wantBytes)
  exact ⟨fun hc => ⟨hrefused (refusal?_of_unconstructed hc _ _), exec_reset_of_unconstructed hc⟩,
    fun hc hf => hrefused (refusal?_of_faulted hc hf _ _),
    fun hlive hout => hrefused (refusal?_of_large_output hlive hout _),
    fun hlive hout hlen => hrefused (refusal?_of_large_input hlive hout hlen), rfl⟩

end Sys2Proof.Machine
end

section
/-! Fault entry (R300, R313): a fault is told from every other by the pair of numbers it leaves in `FAULT.*`. -/

namespace Sys2Proof.Machine

/-! ### The table of fault kinds (R300) -/

/-- The sub-kinds of `OutOfBounds` are numbered from 1, in the order of their constructors. -/
theorem OutOfBoundsCause.ofNat_info (c : OutOfBoundsCause) : OutOfBoundsCause.ofNat (c.info.toNat - 1) = c := by
  cases c <;> rfl

/-- The sub-kinds of `CorruptTable` are numbered from 1, in the order of their constructors. -/
theorem TableDefect.ofNat_info (d : TableDefect) : TableDefect.ofNat (d.info.toNat - 1) = d := by
  cases d <;> rfl

theorem OutOfBoundsCause.info_injective : Function.Injective OutOfBoundsCause.info :=
  Function.LeftInverse.injective (g := fun n : BitVec 4 => OutOfBoundsCause.ofNat (n.toNat - 1)) ofNat_info

theorem TableDefect.info_injective : Function.Injective TableDefect.info :=
  Function.LeftInverse.injective (g := fun n : BitVec 4 => TableDefect.ofNat (n.toNat - 1)) ofNat_info

/-- Kinds of one code belong to one row of R300, where the info tells them apart: it is the sub-kind's number, the tag of the block type, or
1 and 2 for the two window ranges. -/
theorem FaultKind.eq_of_code_info {j k : FaultKind} (hcode : j.code = k.code) (hinfo : j.info = k.info) : j = k := by
  cases j <;> cases k
  case outOfBounds.outOfBounds => exact congrArg _ (OutOfBoundsCause.info_injective hinfo)
  case invalidBlockType.invalidBlockType => exact congrArg _ hinfo
  case corruptTable.corruptTable => exact congrArg _ (TableDefect.info_injective hinfo)
  case windowRangeZero.windowRangeAbove => simp [FaultKind.info] at hinfo
  case windowRangeAbove.windowRangeZero => simp [FaultKind.info] at hinfo
  all_goals simp [FaultKind.code] at hcode ⊢

/-- Settles O60: fault entry writes the kind's two numbers, by which the kind is known, and what it leaves elsewhere is no function of the
registers it forgets (`takeFault_congr`; log 5). -/
theorem faultEntryForgets : Obligations.FaultEntryForgets := by
  refine ⟨fun k s => ?_, fun k s t hcfg hconstructed hhost hdrawn => ?_, fun j k => FaultKind.eq_of_code_info, rfl⟩
  · exact ⟨takeFault_fault k s, takeFault_cfg k s, takeFault_constructed k s, takeFault_result k s, takeFault_phase k s⟩
  · exact takeFault_congr k t hcfg hconstructed hhost hdrawn

end Sys2Proof.Machine
end
